-- ==== Sys2Proof/Word.lean ====
section
/-! DEFINITION. The word types of the CHIP-8 CORE (spec/00_scope.md R4, R6). -/

namespace Sys2Proof

/-- A byte: a memory cell, a general register, a timer (R4 `V_WIDTH`, `TIMER_WIDTH`). -/
abbrev Byte := BitVec 8

/-- A 16-bit value: the instruction word, PC, a stack entry, I as stored (R4, R45). -/
abbrev Word := BitVec 16

/-- The 12-bit immediate NNN of an instruction word (R8). -/
abbrev Addr := BitVec 12

/-- The number of a general register V0 to VF, and of a key 0 to F (R10, R20). -/
abbrev Reg := Fin 16

end Sys2Proof
end

