-- ==== Sys2Proof/Machine/Flags.lean ====
section
/-! DEFINITION. The flag computations: what the seven flag-writing instructions write to VF
(spec/10_state.md R11). "The flag is always 0 or 1" (R93). -/

namespace Sys2Proof.Machine

/-- A flag as the byte written to VF. -/
def flagByte (c : Bool) : Byte := if c then 1 else 0

/-- 8XY4: 1 if the true sum exceeds 255 (R80, R87). -/
def carryFlag (x y : Byte) : Byte := flagByte (decide (255 < x.toNat + y.toNat))

/-- The flag of `a - b`, the complement of the borrow: 1 when a ≥ b, equality included (R80; 8XY5 R88,
8XY7 R90). -/
def notBorrowFlag (a b : Byte) : Byte := flagByte (decide (b.toNat ≤ a.toNat))

/-- 8XY6: bit 0 before the shift (R89). -/
def shiftedOutRight (x : Byte) : Byte := flagByte (x.getLsbD 0)

/-- 8XYE: bit 7 before the shift (R91). -/
def shiftedOutLeft (x : Byte) : Byte := flagByte (x.getLsbD 7)

/-- DXYN: 1 if at least one cell went from 1 to 0 (R117). -/
def collisionFlag (hit : Bool) : Byte := flagByte hit

/-- FX1E: 1 if the unreduced sum exceeds 0xFFF (R102). -/
def addressOverflowFlag (i : Word) (x : Byte) : Byte := flagByte (decide (0xFFF < i.toNat + x.toNat))

end Sys2Proof.Machine
end

