-- ==== Sys2Proof/Syntax.lean ====
section
/-! DEFINITION. The 34 instructions (spec/30_encoding.md R51), one constructor per row of
spec/opcode_table.json, named by the row's mnemonic, the hexadecimal pattern (R58), after `op`. -/

namespace Sys2Proof

/-- One instruction. The operands are the fields X, Y, N, NN, NNN of R8, as R46 gives each format. -/
inductive Instr where
  -- control transfer (40_flow_and_skips.md)
  | op00EE
  | op1NNN (nnn : Addr)
  | op2NNN (nnn : Addr)
  | opBNNN (nnn : Addr)
  | op3XNN (x : Reg) (nn : Byte)
  | op4XNN (x : Reg) (nn : Byte)
  | op5XY0 (x y : Reg)
  | op9XY0 (x y : Reg)
  -- register load, arithmetic, logic, shift, random (41_register_alu.md)
  | op6XNN (x : Reg) (nn : Byte)
  | op7XNN (x : Reg) (nn : Byte)
  | op8XY0 (x y : Reg)
  | op8XY1 (x y : Reg)
  | op8XY2 (x y : Reg)
  | op8XY3 (x y : Reg)
  | op8XY4 (x y : Reg)
  | op8XY5 (x y : Reg)
  /-- Y is encoded but not used (R89) -/
  | op8XY6 (x y : Reg)
  | op8XY7 (x y : Reg)
  /-- Y is encoded but not used (R91) -/
  | op8XYE (x y : Reg)
  | opCXNN (x : Reg) (nn : Byte)
  -- index register and memory (42_index_and_memory.md)
  | opANNN (nnn : Addr)
  | opFX1E (x : Reg)
  | opFX29 (x : Reg)
  | opFX33 (x : Reg)
  | opFX55 (x : Reg)
  | opFX65 (x : Reg)
  -- display (43_display.md)
  | op00E0
  | opDXYN (x y : Reg) (n : Fin 16)
  -- keys and timers (44_keys_and_timers.md)
  | opEX9E (x : Reg)
  | opEXA1 (x : Reg)
  | opFX0A (x : Reg)
  | opFX07 (x : Reg)
  | opFX15 (x : Reg)
  | opFX18 (x : Reg)
deriving DecidableEq, Repr

end Sys2Proof
end

