-- ==== Sys2Proof/WellFormed.lean ====
section
/-! DEFINITION. Well-formed instructions. Every value of every field is legal (spec/30_encoding.md R47,
R48: "all 16 values are legal in every instruction that has the field"), so the checks are the ranges
of the fields of R8. The operand types already hold an operand in its range; the checks are written
over plain numbers so that they can be tried on numbers outside it. -/

namespace Sys2Proof

/-- X or Y: a 4-bit register number, 0 to 15 (R48). -/
def WellFormed.register (n : Nat) : Bool := n < 16

/-- N: a 4-bit row count, 0 to 15 (R47). -/
def WellFormed.rowCount (n : Nat) : Bool := n < 16

/-- NN: an 8-bit immediate, 0 to 255 (R47). -/
def WellFormed.immediate (n : Nat) : Bool := n < 256

/-- NNN: a 12-bit address, 0 to 4095 (R47); "any NNN is legal" (R101), and a target is not checked when
it is written (R65). -/
def WellFormed.address (n : Nat) : Bool := n < 4096

/-- Every operand lies in the range its field gives it (R8, R46). -/
def Instr.wellFormed : Instr → Bool
  | .op00E0 => true
  | .op00EE => true
  | .op1NNN nnn => WellFormed.address nnn.toNat
  | .op2NNN nnn => WellFormed.address nnn.toNat
  | .opANNN nnn => WellFormed.address nnn.toNat
  | .opBNNN nnn => WellFormed.address nnn.toNat
  | .op3XNN x nn => WellFormed.register x && WellFormed.immediate nn.toNat
  | .op4XNN x nn => WellFormed.register x && WellFormed.immediate nn.toNat
  | .op6XNN x nn => WellFormed.register x && WellFormed.immediate nn.toNat
  | .op7XNN x nn => WellFormed.register x && WellFormed.immediate nn.toNat
  | .opCXNN x nn => WellFormed.register x && WellFormed.immediate nn.toNat
  | .op5XY0 x y => WellFormed.register x && WellFormed.register y
  | .op9XY0 x y => WellFormed.register x && WellFormed.register y
  | .op8XY0 x y => WellFormed.register x && WellFormed.register y
  | .op8XY1 x y => WellFormed.register x && WellFormed.register y
  | .op8XY2 x y => WellFormed.register x && WellFormed.register y
  | .op8XY3 x y => WellFormed.register x && WellFormed.register y
  | .op8XY4 x y => WellFormed.register x && WellFormed.register y
  | .op8XY5 x y => WellFormed.register x && WellFormed.register y
  | .op8XY6 x y => WellFormed.register x && WellFormed.register y
  | .op8XY7 x y => WellFormed.register x && WellFormed.register y
  | .op8XYE x y => WellFormed.register x && WellFormed.register y
  | .opDXYN x y n => WellFormed.register x && WellFormed.register y && WellFormed.rowCount n
  | .opEX9E x => WellFormed.register x
  | .opEXA1 x => WellFormed.register x
  | .opFX07 x => WellFormed.register x
  | .opFX0A x => WellFormed.register x
  | .opFX15 x => WellFormed.register x
  | .opFX18 x => WellFormed.register x
  | .opFX1E x => WellFormed.register x
  | .opFX29 x => WellFormed.register x
  | .opFX33 x => WellFormed.register x
  | .opFX55 x => WellFormed.register x
  | .opFX65 x => WellFormed.register x

end Sys2Proof
end

