-- ==== Sys2Proof/Decode.lean ====
section
/-! DEFINITION. Decode and encode (spec/30_encoding.md R45 to R54), both written from the opcode map of
R51, and the opcode map's masks and matches themselves as data. -/

namespace Sys2Proof

/-! ## Byte order and fields -/

/-- `hi ‖ lo`: the more significant byte stands at the lower address (R35, R45). -/
def bigEndian (hi lo : Byte) : Word := hi ++ lo

/-- The two bytes of an instruction word as memory holds them, lowest address first (R45). -/
def wordBytes (w : Word) : List Byte := [w.extractLsb 15 8, w.extractLsb 7 0]

/-- OP = W[15:12] (R8). -/
def fieldOP (w : Word) : BitVec 4 := w.extractLsb 15 12
/-- X = W[11:8] (R8). -/
def fieldX (w : Word) : Reg := (w.extractLsb 11 8).toFin
/-- Y = W[7:4] (R8). -/
def fieldY (w : Word) : Reg := (w.extractLsb 7 4).toFin
/-- N = W[3:0] (R8). -/
def fieldN (w : Word) : Fin 16 := (w.extractLsb 3 0).toFin
/-- NN = W[7:0] (R8). -/
def fieldNN (w : Word) : Byte := w.extractLsb 7 0
/-- NNN = W[11:0] (R8). -/
def fieldNNN (w : Word) : Addr := w.extractLsb 11 0

/-! ## Decode -/

/-- Family 8, selected by the digit N: "one of 0 to 7 or E" (R50, R94). -/
def decodeFamily8 (x y n : Fin 16) : Option Instr :=
  match n.val with
  | 0x0 => some (.op8XY0 x y)
  | 0x1 => some (.op8XY1 x y)
  | 0x2 => some (.op8XY2 x y)
  | 0x3 => some (.op8XY3 x y)
  | 0x4 => some (.op8XY4 x y)
  | 0x5 => some (.op8XY5 x y)
  | 0x6 => some (.op8XY6 x y)
  | 0x7 => some (.op8XY7 x y)
  | 0xE => some (.op8XYE x y)
  | _ => none

/-- Family E, selected by the byte NN (R50). -/
def decodeFamilyE (x : Reg) (nn : Byte) : Option Instr :=
  match nn.toNat with
  | 0x9E => some (.opEX9E x)
  | 0xA1 => some (.opEXA1 x)
  | _ => none

/-- Family F, selected by the byte NN (R50). -/
def decodeFamilyF (x : Reg) (nn : Byte) : Option Instr :=
  match nn.toNat with
  | 0x07 => some (.opFX07 x)
  | 0x0A => some (.opFX0A x)
  | 0x15 => some (.opFX15 x)
  | 0x18 => some (.opFX18 x)
  | 0x1E => some (.opFX1E x)
  | 0x29 => some (.opFX29 x)
  | 0x33 => some (.opFX33 x)
  | 0x55 => some (.opFX55 x)
  | 0x65 => some (.opFX65 x)
  | _ => none

/-- Family 0: "the whole word must equal 0x00E0 or 0x00EE" (R50). -/
def decodeFamily0 (w : Word) : Option Instr :=
  match w.toNat with
  | 0x00E0 => some .op00E0
  | 0x00EE => some .op00EE
  | _ => none

/-- The instruction a word is, or none for an unknown opcode: a word is an instruction only if every
literal digit of its pattern matches (R50 to R53). A function of the word alone (R54). -/
def decodeWord (w : Word) : Option Instr :=
  match (fieldOP w).toNat with
  | 0x0 => decodeFamily0 w
  | 0x1 => some (.op1NNN (fieldNNN w))
  | 0x2 => some (.op2NNN (fieldNNN w))
  | 0x3 => some (.op3XNN (fieldX w) (fieldNN w))
  | 0x4 => some (.op4XNN (fieldX w) (fieldNN w))
  | 0x5 => if fieldN w = 0 then some (.op5XY0 (fieldX w) (fieldY w)) else none
  | 0x6 => some (.op6XNN (fieldX w) (fieldNN w))
  | 0x7 => some (.op7XNN (fieldX w) (fieldNN w))
  | 0x8 => decodeFamily8 (fieldX w) (fieldY w) (fieldN w)
  | 0x9 => if fieldN w = 0 then some (.op9XY0 (fieldX w) (fieldY w)) else none
  | 0xA => some (.opANNN (fieldNNN w))
  | 0xB => some (.opBNNN (fieldNNN w))
  | 0xC => some (.opCXNN (fieldX w) (fieldNN w))
  | 0xD => some (.opDXYN (fieldX w) (fieldY w) (fieldN w))
  | 0xE => decodeFamilyE (fieldX w) (fieldNN w)
  | 0xF => decodeFamilyF (fieldX w) (fieldNN w)
  | _ => none

/-- Why bytes are no instruction. -/
inductive Reject where
  /-- the word matches no row of R51 (R52, R144) -/
  | unknownOpcode (w : Word)
  /-- fewer than the two bytes every instruction has (R45); a fetch always supplies two -/
  | truncated (n : Nat)
deriving DecidableEq, Repr

/-- The instruction at the head of a byte list and the bytes after it, or the reason there is none.
Total on any bytes. -/
def decode : List Byte → Except Reject (Instr × List Byte)
  | hi :: lo :: rest =>
    match decodeWord (bigEndian hi lo) with
    | some i => .ok (i, rest)
    | none => .error (.unknownOpcode (bigEndian hi lo))
  | short => .error (.truncated short.length)

/-! ## Encode -/

/-- A register number, row count or key number as one digit of the word (R6, R8). -/
def digit (r : Fin 16) : BitVec 4 := BitVec.ofFin r

/-- The word of an instruction: its pattern of R51 with the fields in the places of R46. -/
def encode : Instr → Word
  | .op00E0 => 0x00E0#16
  | .op00EE => 0x00EE#16
  | .op1NNN nnn => 0x1#4 ++ nnn
  | .op2NNN nnn => 0x2#4 ++ nnn
  | .op3XNN x nn => 0x3#4 ++ digit x ++ nn
  | .op4XNN x nn => 0x4#4 ++ digit x ++ nn
  | .op5XY0 x y => 0x5#4 ++ digit x ++ digit y ++ 0x0#4
  | .op6XNN x nn => 0x6#4 ++ digit x ++ nn
  | .op7XNN x nn => 0x7#4 ++ digit x ++ nn
  | .op8XY0 x y => 0x8#4 ++ digit x ++ digit y ++ 0x0#4
  | .op8XY1 x y => 0x8#4 ++ digit x ++ digit y ++ 0x1#4
  | .op8XY2 x y => 0x8#4 ++ digit x ++ digit y ++ 0x2#4
  | .op8XY3 x y => 0x8#4 ++ digit x ++ digit y ++ 0x3#4
  | .op8XY4 x y => 0x8#4 ++ digit x ++ digit y ++ 0x4#4
  | .op8XY5 x y => 0x8#4 ++ digit x ++ digit y ++ 0x5#4
  | .op8XY6 x y => 0x8#4 ++ digit x ++ digit y ++ 0x6#4
  | .op8XY7 x y => 0x8#4 ++ digit x ++ digit y ++ 0x7#4
  | .op8XYE x y => 0x8#4 ++ digit x ++ digit y ++ 0xE#4
  | .op9XY0 x y => 0x9#4 ++ digit x ++ digit y ++ 0x0#4
  | .opANNN nnn => 0xA#4 ++ nnn
  | .opBNNN nnn => 0xB#4 ++ nnn
  | .opCXNN x nn => 0xC#4 ++ digit x ++ nn
  | .opDXYN x y n => 0xD#4 ++ digit x ++ digit y ++ digit n
  | .opEX9E x => 0xE#4 ++ digit x ++ 0x9E#8
  | .opEXA1 x => 0xE#4 ++ digit x ++ 0xA1#8
  | .opFX07 x => 0xF#4 ++ digit x ++ 0x07#8
  | .opFX0A x => 0xF#4 ++ digit x ++ 0x0A#8
  | .opFX15 x => 0xF#4 ++ digit x ++ 0x15#8
  | .opFX18 x => 0xF#4 ++ digit x ++ 0x18#8
  | .opFX1E x => 0xF#4 ++ digit x ++ 0x1E#8
  | .opFX29 x => 0xF#4 ++ digit x ++ 0x29#8
  | .opFX33 x => 0xF#4 ++ digit x ++ 0x33#8
  | .opFX55 x => 0xF#4 ++ digit x ++ 0x55#8
  | .opFX65 x => 0xF#4 ++ digit x ++ 0x65#8

/-- The bytes of an instruction, lowest address first. -/
def encodeBytes (i : Instr) : List Byte := wordBytes (encode i)

/-! ## The opcode map as masks and matches -/

/-- One row of R51: the pattern, a mask with a 1 in every literal bit, and the value of those bits. -/
structure OpcodeRow where
  pattern : String
  mask    : Word
  value   : Word
deriving DecidableEq, Repr

/-- The row of R51 that an instruction stands in. -/
def Instr.row : Instr → OpcodeRow
  | .op00E0 => ⟨"00E0", 0xFFFF, 0x00E0⟩
  | .op00EE => ⟨"00EE", 0xFFFF, 0x00EE⟩
  | .op1NNN _ => ⟨"1NNN", 0xF000, 0x1000⟩
  | .op2NNN _ => ⟨"2NNN", 0xF000, 0x2000⟩
  | .op3XNN _ _ => ⟨"3XNN", 0xF000, 0x3000⟩
  | .op4XNN _ _ => ⟨"4XNN", 0xF000, 0x4000⟩
  | .op5XY0 _ _ => ⟨"5XY0", 0xF00F, 0x5000⟩
  | .op6XNN _ _ => ⟨"6XNN", 0xF000, 0x6000⟩
  | .op7XNN _ _ => ⟨"7XNN", 0xF000, 0x7000⟩
  | .op8XY0 _ _ => ⟨"8XY0", 0xF00F, 0x8000⟩
  | .op8XY1 _ _ => ⟨"8XY1", 0xF00F, 0x8001⟩
  | .op8XY2 _ _ => ⟨"8XY2", 0xF00F, 0x8002⟩
  | .op8XY3 _ _ => ⟨"8XY3", 0xF00F, 0x8003⟩
  | .op8XY4 _ _ => ⟨"8XY4", 0xF00F, 0x8004⟩
  | .op8XY5 _ _ => ⟨"8XY5", 0xF00F, 0x8005⟩
  | .op8XY6 _ _ => ⟨"8XY6", 0xF00F, 0x8006⟩
  | .op8XY7 _ _ => ⟨"8XY7", 0xF00F, 0x8007⟩
  | .op8XYE _ _ => ⟨"8XYE", 0xF00F, 0x800E⟩
  | .op9XY0 _ _ => ⟨"9XY0", 0xF00F, 0x9000⟩
  | .opANNN _ => ⟨"ANNN", 0xF000, 0xA000⟩
  | .opBNNN _ => ⟨"BNNN", 0xF000, 0xB000⟩
  | .opCXNN _ _ => ⟨"CXNN", 0xF000, 0xC000⟩
  | .opDXYN _ _ _ => ⟨"DXYN", 0xF000, 0xD000⟩
  | .opEX9E _ => ⟨"EX9E", 0xF0FF, 0xE09E⟩
  | .opEXA1 _ => ⟨"EXA1", 0xF0FF, 0xE0A1⟩
  | .opFX07 _ => ⟨"FX07", 0xF0FF, 0xF007⟩
  | .opFX0A _ => ⟨"FX0A", 0xF0FF, 0xF00A⟩
  | .opFX15 _ => ⟨"FX15", 0xF0FF, 0xF015⟩
  | .opFX18 _ => ⟨"FX18", 0xF0FF, 0xF018⟩
  | .opFX1E _ => ⟨"FX1E", 0xF0FF, 0xF01E⟩
  | .opFX29 _ => ⟨"FX29", 0xF0FF, 0xF029⟩
  | .opFX33 _ => ⟨"FX33", 0xF0FF, 0xF033⟩
  | .opFX55 _ => ⟨"FX55", 0xF0FF, 0xF055⟩
  | .opFX65 _ => ⟨"FX65", 0xF0FF, 0xF065⟩

/-- One instruction of each of the 34 rows, in the order of R51. -/
def rowSamples : List Instr :=
  [.op00E0, .op00EE, .op1NNN 0, .op2NNN 0, .op3XNN 0 0, .op4XNN 0 0, .op5XY0 0 0, .op6XNN 0 0,
   .op7XNN 0 0, .op8XY0 0 0, .op8XY1 0 0, .op8XY2 0 0, .op8XY3 0 0, .op8XY4 0 0, .op8XY5 0 0,
   .op8XY6 0 0, .op8XY7 0 0, .op8XYE 0 0, .op9XY0 0 0] ++
  [.opANNN 0, .opBNNN 0, .opCXNN 0 0, .opDXYN 0 0 0, .opEX9E 0, .opEXA1 0, .opFX07 0, .opFX0A 0,
   .opFX15 0, .opFX18 0, .opFX1E 0, .opFX29 0, .opFX33 0, .opFX55 0, .opFX65 0]

/-- The opcode map: the 34 rows of R51. -/
def opcodeMap : List OpcodeRow := rowSamples.map Instr.row

/-- A word matches a row: `W and mask = match` (R50). -/
def OpcodeRow.matchesWord (r : OpcodeRow) (w : Word) : Bool := w &&& r.mask == r.value

/-! ## The decoder on a word of the opcode table -/

/-- The instruction the decoder reads from the bits `w` of a row of `nbits` bits, the bits above `nbits`
zero. Every row is one 16-bit word (R45), laid out more significant byte first. -/
def decodeTableWord (nbits w : Nat) : Option Instr :=
  match decode (wordBytes (BitVec.ofNat 16 (w % 2 ^ nbits))) with
  | .ok (i, _) => some i
  | .error _ => none

end Sys2Proof
end

