-- ==== Sys2Proof/Config.lean ====
section
/-! DEFINITION. What the spec leaves to whoever builds the machine (spec/00_scope.md R5): the named
parameters with their decided values, and the free values, which are constants with no body. -/

namespace Sys2Proof

/-- `TIMER_MODE` (R5, R155): who performs TimerTick. -/
inductive TimerMode where
  /-- every Step that does not fault and is not halted ends with one TimerTick -/
  | perStep
  /-- a Step performs none; the tick source fires TimerTick between Steps -/
  | externalTick
deriving DecidableEq, Repr

/-- `KEY_INDEX_POLICY` (R5, R125): what EX9E and EXA1 read for a key number above 15. -/
inductive KeyIndexPolicy where
  /-- the key of the low nibble -/
  | mask
  /-- a free Boolean -/
  | draw
deriving DecidableEq, Repr

/-- `KEY_PRIORITY` (R5, R128): which pressed key FX0A returns when several are down. -/
inductive KeyPriority where
  | lowest
  | highest
  /-- any pressed key, a draw -/
  | any
deriving DecidableEq, Repr

/-- `FONT_TABLE` (R5, R27): 16 glyphs of 5 bytes, top row first. -/
abbrev FontTable := Vector Byte 80

/-- The parameters of R5. No Step and no move of the host changes them. -/
structure Config where
  timerMode      : TimerMode
  lsIncrementI   : Bool
  keyIndexPolicy : KeyIndexPolicy
  keyPriority    : KeyPriority
  fontTable      : FontTable
deriving DecidableEq, Repr

/-- The customary glyphs 0 to 7 of R27. PRESUMED (log 2): the spec marks the byte values as general
knowledge. -/
def Config.fontGlyphs0to7 : Vector Byte 40 :=
  #v[0xF0, 0x90, 0x90, 0x90, 0xF0,  0x20, 0x60, 0x20, 0x20, 0x70,
     0xF0, 0x10, 0xF0, 0x80, 0xF0,  0xF0, 0x10, 0xF0, 0x10, 0xF0,
     0x90, 0x90, 0xF0, 0x10, 0x10,  0xF0, 0x80, 0xF0, 0x10, 0xF0,
     0xF0, 0x80, 0xF0, 0x90, 0xF0,  0xF0, 0x10, 0x20, 0x40, 0x40]

/-- The customary glyphs 8 to F of R27. PRESUMED (log 2). -/
def Config.fontGlyphs8toF : Vector Byte 40 :=
  #v[0xF0, 0x90, 0xF0, 0x90, 0xF0,  0xF0, 0x90, 0xF0, 0x10, 0xF0,
     0xF0, 0x90, 0xF0, 0x90, 0x90,  0xE0, 0x90, 0xE0, 0x90, 0xE0,
     0xF0, 0x80, 0x80, 0x80, 0xF0,  0xE0, 0x90, 0x90, 0x90, 0xE0,
     0xF0, 0x80, 0xF0, 0x80, 0xF0,  0xF0, 0x80, 0xF0, 0x80, 0x80]

/-- The default `FONT_TABLE` of R27. -/
def Config.defaultFont : FontTable :=
  Config.fontGlyphs0to7 ++ Config.fontGlyphs8toF

/-- The decided value of every parameter (R5; 92_eei_decisions.md D1, D6, D8, D9, D11).
DESIGN CHOICE (log 1): the spec leaves each open and names these as the reference. -/
def Config.reference : Config where
  timerMode      := .perStep
  lsIncrementI   := false
  keyIndexPolicy := .mask
  keyPriority    := .lowest
  fontTable      := Config.defaultFont

/-! ## Free values (log 3, 4, 5, 9)

The argument is the number of inputs drawn so far (`State.draws`). Nothing can be proved of a value. -/

/-- KEY of the n-th drawn Step input: `true` is pressed (R20). -/
opaque Config.freeKeys : Nat → Vector Bool 16

/-- RND of the n-th drawn Step input (R96). -/
opaque Config.freeRnd : Nat → Byte

/-- The free Boolean of `KEY_INDEX_POLICY = draw` in the n-th drawn Step input (R125). -/
opaque Config.freeKeyDraw : Nat → Bool

/-- The key from which the scan of `KEY_PRIORITY = any` starts in the n-th drawn Step input (R128). -/
opaque Config.freePick : Nat → Fin 16

/-- How many TimerTicks the tick source fires after the n-th drawn Step under
`TIMER_MODE = external_tick` (R155: "any number of times, under no law"). -/
opaque Config.freeTicks : Nat → Nat

end Sys2Proof
end

