-- ==== Sys2Proof/Machine/State.lean ====
section
/-! DEFINITION. The state of the machine as plain data (spec/10_state.md R10 to R29), the reasons a step
can stop, and the state after Reset (R24, R165). -/

namespace Sys2Proof.Machine

/-- FAULT, the fault latch (R21, R140). A fault is not a stop of the model: the Step that meets it
answers a next state with the latch set (R148). -/
inductive FaultCode where
  | none
  | pcFault
  | stackOverflow
  | stackUnderflow
deriving DecidableEq, Repr

/-- The code of a fault (R140; the numbers are the spec's own labels, D3). -/
def FaultCode.code : FaultCode → Nat
  | .none => 0
  | .pcFault => 1
  | .stackOverflow => 2
  | .stackUnderflow => 3

/-- A move of the host between two Steps that changes the state (R169). The moves that change nothing
(read state, stop stepping) need no constructor; the keys are part of the next Step's input. -/
inductive HostMove where
  /-- Reset (R165) -/
  | reset
  /-- Reset and then LoadProgram, which acts only between Reset and the first Step (R166, R167) -/
  | boot (image : List Byte)
  /-- TimerTick, a move of its own only under `TIMER_MODE = external_tick` (R155) -/
  | timerTick
  /-- ClearDirty (R169) -/
  | clearDirty
deriving DecidableEq, Repr

/-- What the world outside gives one Step, and what the host does after that Step and before the next.
Not state of the CORE (R20, R96): see log 3. -/
structure StepInput where
  /-- `KEY[0..15]` as the Step sees it, true is pressed (R20, R125) -/
  key     : Vector Bool 16
  /-- RND (R96) -/
  rnd     : Byte
  /-- the free Boolean of `KEY_INDEX_POLICY = draw` (R125) -/
  keyDraw : Bool
  /-- the key from which the scan of `KEY_PRIORITY = any` starts (R128) -/
  pick    : Fin 16
  /-- the host's moves after the Step, in order (R169) -/
  after   : List HostMove
deriving DecidableEq, Repr

/-- Memory as the bytes that differ from the contents Reset gives, sorted by address. -/
abbrev Memory := List Host.Cell

/-- The framebuffer: 32 rows of 64 one-bit cells; bit x of row y is the cell FB[y][x] (R18). -/
abbrev Framebuffer := Vector (BitVec 64) 32

/-- Everything the spec gives the machine, then the model's own fields. -/
structure State where
  /-- V0 to VF (R10); VF is also the flag (R11) -/
  v         : Vector Byte 16
  /-- I, the index register, 16 bits stored (R4, R13) -/
  i         : Word
  /-- PC, the program counter (R14) -/
  pc        : Word
  /-- SP, the number of stack entries in use, 0 to 16 (R16) -/
  sp        : Fin 17
  /-- S[0] to S[15], the call stack (R15) -/
  stack     : Vector Word 16
  /-- DT, the delay timer (R17, R152) -/
  dt        : Byte
  /-- ST, the sound timer (R17, R153) -/
  st        : Byte
  /-- FB, the framebuffer (R18) -/
  fb        : Framebuffer
  /-- DIRTY, the dirty flag (R19) -/
  dirty     : Bool
  /-- FAULT, the fault latch (R21) -/
  fault     : FaultCode
  /-- the 4096-byte memory (R30) -/
  mem       : Memory
  /-- the model's own: the parameters of R5, never changed (log 1) -/
  cfg       : Config
  /-- the model's own: the inputs of the next Steps that a claim or a test fixes (log 3) -/
  inputs    : List StepInput
  /-- the model's own: how many Step inputs have been taken, the argument of the free values (log 3) -/
  draws     : Nat
  /-- the output `unknown_op` of the last Step (R28, R144; log 6) -/
  unknownOp : Option Word
  /-- the outputs `tone_req` of the TimerTicks in and after the last Step, one each, oldest first (R28,
  R154; log 6); `State.toneReq` reads the last -/
  tones     : List Bool
deriving DecidableEq, Repr

/-- Reasons the machine stops with a fault: none. The three fatal conditions of R140 are latched in
`State.fault`, and a Step from a halted machine is a Step that changes nothing (R149), so no Step stops.
Safe: nothing is left out by it. -/
inductive Fault : Type
deriving DecidableEq, Repr

/-- Reasons an instruction has no meaning. -/
inductive Refusal where
  /-- Raised by an arm of `exec` for an instruction that has no meaning yet. Safe: the machine stops.
  No arm of this model raises it. -/
  | notModelled (mnemonic : String)
deriving DecidableEq, Repr

/-- The machine right after Reset (R24, R165), with the reference parameters (log 1), no fixed inputs
(log 3) and no outputs (log 6). -/
def State.reset : State where
  v         := Vector.replicate 16 0
  i         := 0
  pc        := 0x0200
  sp        := 0
  stack     := Vector.replicate 16 0
  dt        := 0
  st        := 0
  fb        := Vector.replicate 32 0
  dirty     := false
  fault     := .none
  mem       := []
  cfg       := Config.reference
  inputs    := []
  draws     := 0
  unknownOp := none
  tones     := []

end Sys2Proof.Machine
end

