-- ==== Sys2Proof/Machine/Ops.lean ====
section
/-! DEFINITION. The named operations over registers, stack, memory, screen, timers, faults, inputs and
the host's moves (spec/00_scope.md R7 gives the primitives' names). -/

namespace Sys2Proof.Machine

/-! ## Memory (20_memory.md) -/

/-- `addr12(v) = v mod 4096` (R7, R33). -/
def addr12 (n : Nat) : Nat := n % 4096

/-- What an address that is not listed reads as: the contents Reset gives, the font at 0x000 to 0x04F
and zero elsewhere (R24, R165). -/
def Memory.unlisted (font : FontTable) (a : Nat) : Byte :=
  if h : a < 80 then font[a] else 0

/-- The listed byte at an address. -/
def Memory.lookup : Memory → Nat → Option Byte
  | [], _ => none
  | (b, w) :: rest, a => if a = b then some w else Memory.lookup rest a

/-- The byte at an address. -/
def Memory.read (font : FontTable) (m : Memory) (a : Nat) : Byte :=
  (Memory.lookup m a).getD (Memory.unlisted font a)

/-- List a byte at an address, in its place by address. -/
def Memory.insert : Memory → Nat → Byte → Memory
  | [], a, x => [(a, x)]
  | (b, w) :: rest, a, x =>
    if a < b then (a, x) :: (b, w) :: rest
    else if a = b then (a, x) :: rest
    else (b, w) :: Memory.insert rest a x

/-- Take an address off the list. -/
def Memory.erase (m : Memory) (a : Nat) : Memory := m.filter fun c => c.1 != a

/-- Store a byte: the value an unlisted address reads as removes the entry, so that equal memories are
equal lists. -/
def Memory.write (font : FontTable) (m : Memory) (a : Nat) (x : Byte) : Memory :=
  if x = Memory.unlisted font a then Memory.erase m a else Memory.insert m a x

/-- The canonical form: addresses strictly rising and below 4096, and no entry equal to what an unlisted
address reads as. -/
def Memory.wf (font : FontTable) (m : Memory) : Bool :=
  decide (m.Pairwise fun c d => c.1 < d.1) &&
    m.all fun c => decide (c.1 < 4096) && decide (c.2 ≠ Memory.unlisted font c.1)

/-- `MemRead(a, 1)`: the byte at `addr12(a)` (R34). -/
def State.readByte (s : State) (a : Nat) : Byte :=
  Memory.read s.cfg.fontTable s.mem (addr12 a)

/-- `MemRead(a, 2)`: the byte at the lower address in bits 15 to 8 (R34, R35). -/
def State.readWord (s : State) (a : Nat) : Word :=
  bigEndian (s.readByte a) (s.readByte (a + 1))

/-- `MemWrite(a, 1, v)`: the byte is stored at `addr12(a)` and no other byte changes (R34). All 4096
bytes can be written, font and code included (R32). -/
def State.writeByte (s : State) (a : Nat) (x : Byte) : State :=
  { s with mem := Memory.write s.cfg.fontTable s.mem (addr12 a) x }

/-- Store bytes at ascending addresses from `a`. -/
def State.writeBytes (s : State) : Nat → List Byte → State
  | _, [] => s
  | a, x :: xs => (s.writeByte a x).writeBytes (a + 1) xs

/-! ## Registers (10_state.md) -/

/-- `V[r]` (R10). -/
def State.getV (s : State) (r : Reg) : Byte := s.v[r]

/-- `V[r] <- x` (R10). -/
def State.setV (s : State) (r : Reg) (x : Byte) : State := { s with v := s.v.set r x }

/-- `VF <- x`: VF is V[15] (R10, R11). -/
def State.setVF (s : State) (x : Byte) : State := s.setV 15 x

/-- `I <- v`: a write stores `addr12(v)` (R13; log 11). -/
def State.setI (s : State) (n : Nat) : State := { s with i := BitVec.ofNat 16 (addr12 n) }

/-- `PC <- w`, 16 bits, never reduced to 12 (R14; log 12). -/
def State.setPc (s : State) (w : Word) : State := { s with pc := w }

/-- `PC <- PC + 2`, the policy "next" (R57). -/
def State.advance (s : State) : State := s.setPc (s.pc + 2)

/-- `PC <- PC + 4` if the condition holds, else `PC <- PC + 2`: the policy "skip" (R57, R65). -/
def State.skipIf (s : State) (c : Bool) : State := s.setPc (if c then s.pc + 4 else s.pc + 2)

/-- `DT <- x` (R130). -/
def State.setDT (s : State) (x : Byte) : State := { s with dt := x }

/-- `ST <- x` (R131). -/
def State.setST (s : State) (x : Byte) : State := { s with st := x }

/-! ## Faults (60_exceptions.md) -/

/-- `raise K`, taking a fault: the latch is set and every other piece of state keeps the value it had
when the Step began (R148). There is no return from a fault; only Reset clears the latch (R149). -/
def State.raise (s : State) (k : FaultCode) : State := { s with fault := k }

/-! ## Call stack -/

/-- 2NNN's push: `S[SP] <- w` and then `SP <- SP + 1`; none when SP = 16 (R16, R68). -/
def State.push (s : State) (w : Word) : Option State :=
  if h : s.sp.val < 16 then
    some { s with stack := s.stack.set s.sp.val w, sp := ⟨s.sp.val + 1, by omega⟩ }
  else none

/-- 00EE's pop: `SP <- SP - 1` and then the entry `S[SP]` is read and left in the array; none when
SP = 0 (R16, R66). -/
def State.pop (s : State) : Option (Word × State) :=
  if h : 0 < s.sp.val then
    some (s.stack[s.sp.val - 1]'(by omega), { s with sp := ⟨s.sp.val - 1, by omega⟩ })
  else none

/-! ## Framebuffer (43_display.md) -/

/-- `FB[y][x]`. -/
def Framebuffer.cell (fb : Framebuffer) (y : Fin 32) (x : Fin 64) : Bool := fb[y].getLsbD x

/-- `FB[y][x] <- FB[y][x] xor 1`. -/
def Framebuffer.toggle (fb : Framebuffer) (y : Fin 32) (x : Fin 64) : Framebuffer :=
  fb.set y (fb[y] ^^^ BitVec.twoPow 64 x)

/-- All 2048 cells 0. -/
def Framebuffer.blank : Framebuffer := Vector.replicate 32 0

/-- A draw in progress: the framebuffer so far, and whether a cell has gone from 1 to 0. -/
abbrev Drawing := Framebuffer × Bool

/-- One set source bit at (x, y): a cell that was 1 is a collision, and the cell is toggled (R117). -/
def drawPixel (d : Drawing) (y : Fin 32) (x : Fin 64) : Drawing :=
  (d.1.toggle y x, d.2 || d.1.cell y x)

/-- The source bit of a column: bit 7 - col, the most significant bit is column 0 (R118; log 16). -/
def spriteBit (b : Byte) (col : Nat) : Bool := b.getLsbD (7 - col)

/-- The eight columns of one sprite row, x wrapping modulo 64 (R117). -/
def drawRow (b : Byte) (x0 : Nat) (y : Fin 32) (d : Drawing) : Drawing :=
  (List.range 8).foldl
    (fun d col => if spriteBit b col then drawPixel d y (Fin.ofNat 64 (x0 + col)) else d) d

/-- The rows of a sprite, y wrapping modulo 32 (R117). -/
def drawRows : List Byte → Nat → Nat → Drawing → Drawing
  | [], _, _, d => d
  | b :: bs, x0, y0, d => drawRows bs x0 (y0 + 1) (drawRow b x0 (Fin.ofNat 32 y0) d)

/-! ## Timers (60_exceptions.md) -/

/-- The output `tone_req` of the latest transition: of the last TimerTick in or after the last Step, or
false if there has been none since that Step began (R28, R56; log 6). -/
def State.toneReq (s : State) : Bool := s.tones.getLastD false

/-- A TimerTick gives its output, true or false (R154, R156). -/
def State.emitTone (s : State) (b : Bool) : State := { s with tones := s.tones ++ [b] }

/-- TimerTick (R154): its output is false and nothing else happens while a fault is latched; else each timer
that is not 0 loses 1, and the output is true exactly when ST is found equal to 1 (R156; log 17). -/
def State.timerTick (s : State) : State :=
  if s.fault = .none then
    State.emitTone { s with
      dt := if s.dt = 0 then 0 else s.dt - 1
      st := if s.st = 0 then 0 else s.st - 1 } (s.st == 1)
  else s.emitTone false

/-- The last line of a Step: a TimerTick under `per_step`, nothing under `external_tick` (R56, R155). A Step
that faulted or is halted ended before this line and performs none (R148, R149). -/
def State.stepTick (s : State) : State :=
  match s.cfg.timerMode with
  | .perStep => if s.fault = .none then s.timerTick else s
  | .externalTick => s

/-! ## Inputs (10_state.md R20, 41_register_alu.md R96) -/

/-- The n-th input when nothing fixes it: free values. Under `external_tick` the tick source fires any
number of TimerTicks after the Step (R155; log 9). -/
def freeInput (c : Config) (n : Nat) : StepInput where
  key     := Config.freeKeys n
  rnd     := Config.freeRnd n
  keyDraw := Config.freeKeyDraw n
  pick    := Config.freePick n
  after   := match c.timerMode with
    | .perStep => []
    | .externalTick => List.replicate (Config.freeTicks n) .timerTick

/-- The input of the current Step, sampled once (R20): the next fixed one, or free values. -/
def State.input (s : State) : StepInput :=
  match s.inputs with
  | [] => freeInput s.cfg s.draws
  | x :: _ => x

/-- The Step's input is used up; the next Step has its own. -/
def State.takeInput (s : State) : State :=
  { s with inputs := s.inputs.tail, draws := s.draws + 1 }

/-- The order in which FX0A tries the keys: upward, downward, or upward from a free key and round again,
which can end on any pressed key (R128; log 5). -/
def scanOrder (p : KeyPriority) (pick : Fin 16) : List (Fin 16) :=
  match p with
  | .lowest => List.finRange 16
  | .highest => (List.finRange 16).reverse
  | .any => (List.finRange 16).map fun k => pick + k

/-- `pick(KEY)`: a pressed key by `KEY_PRIORITY`, or none if no key is down (R128). -/
def State.pickKey (s : State) : Option Reg :=
  (scanOrder s.cfg.keyPriority s.input.pick).find? fun k => s.input.key[k]

/-! ## Outputs -/

/-- `unknown_op <- absent ; tone_req <- false`: how a Step begins (R56). -/
def State.clearOutputs (s : State) : State := { s with unknownOp := none, tones := [] }

/-- An unknown opcode: report the word and advance PC, nothing else (R52, R144). -/
def State.unknownOpcode (s : State) (w : Word) : State :=
  State.advance { s with unknownOp := some w }

/-! ## Moves of the host (70_reset_and_hazards.md) -/

/-- Reset (R165), in any state. What is not state of the CORE stays: the parameters, the inputs the host
still has to give, and the outputs of the Step before (log 25). -/
def State.hostReset (s : State) : State :=
  { State.reset with
    cfg := s.cfg, inputs := s.inputs, draws := s.draws
    unknownOp := s.unknownOp, tones := s.tones }

/-- LoadProgram (R167): an image over 3584 bytes is rejected and memory keeps its contents; else it is
copied verbatim to 0x200 onward. -/
def State.loadProgram (s : State) (image : List Byte) : State :=
  if image.length ≤ 3584 then s.writeBytes 0x200 image else s

/-- ClearDirty (R169). -/
def State.clearDirty (s : State) : State := { s with dirty := false }

/-- One move of the host (R169). A TimerTick is no move of its own under `per_step` (R155). -/
def State.hostMove (s : State) : HostMove → State
  | .reset => s.hostReset
  | .boot image => s.hostReset.loadProgram image
  | .timerTick =>
    match s.cfg.timerMode with
    | .perStep => s
    | .externalTick => s.timerTick
  | .clearDirty => s.clearDirty

/-! ## Fetch and the frame of a Step (30_encoding.md) -/

/-- An instruction can be fetched at PC: PC even and 0x200 to 0xFFE (R49). -/
def fetchable (pc : Word) : Bool :=
  pc.toNat % 2 == 0 && decide (0x0200 ≤ pc.toNat) && decide (pc.toNat ≤ 0x0FFE)

/-- What the start of a Step finds, in the order of R147. -/
inductive Fetched where
  /-- a fault is latched: the Step does nothing (R149) -/
  | halted
  /-- PC is odd or out of range: PcFault, and no memory is read (R49, R141) -/
  | badPc
  /-- the instruction word (R35) -/
  | word (w : Word)
deriving DecidableEq, Repr

/-- The start of a Step (R49, R147). PC is not masked first and not changed. -/
def State.fetch (s : State) : Fetched :=
  if s.fault ≠ .none then .halted
  else if fetchable s.pc then .word (s.readWord s.pc.toNat)
  else .badPc

/-- How every Step ends: its TimerTick, which a latched fault suppresses (R148, R149), then the input is
used up, then the host's moves before the next Step. -/
def State.finishStep (s : State) : State :=
  s.input.after.foldl State.hostMove s.stepTick.takeInput

end Sys2Proof.Machine
end

