-- ==== Sys2Proof/Machine/Operands.lean ====
section
/-! DEFINITION. The operand forms (spec/30_encoding.md R47, R48; 42_index_and_memory.md R100): register
operands are `State.getV`; here stand the immediates, the address forms and the key operand. -/

namespace Sys2Proof.Machine

/-- `zext_16(NNN)` (R47). -/
def targetNNN (nnn : Addr) : Word := nnn.setWidth 16

/-- `NNN + V0`, a 16-bit sum not reduced to 12 bits (R69). -/
def State.indexedTarget (s : State) (nnn : Addr) : Word :=
  nnn.setWidth 16 + (s.getV 0).setWidth 16

/-- The effective address of byte k, `addr12(I + k)`: the one data addressing mode (R100). -/
def State.effAddr (s : State) (k : Nat) : Nat := addr12 (s.i.toNat + k)

/-- The address of the glyph of a value: the whole byte times 5; `FONT_BASE` is 0 (R103). -/
def glyphAddr (x : Byte) : Nat := x.toNat * 5

/-- `x div 100`, `(x div 10) mod 10`, `x mod 10`, each a byte (R104). -/
def decimalDigits (x : Byte) : List Byte :=
  [BitVec.ofNat 8 (x.toNat / 100), BitVec.ofNat 8 (x.toNat / 10 % 10), BitVec.ofNat 8 (x.toNat % 10)]

/-- V0 to VX, "inclusive" (R105, R106). -/
def regsUpTo (x : Reg) : List Reg := (List.finRange 16).filter fun r => decide (r ≤ x)

/-- The N sprite bytes at I (R117). -/
def State.spriteBytes (s : State) (n : Nat) : List Byte :=
  (List.range n).map fun r => s.readByte (s.effAddr r)

/-- `keyOf(v)` (R125): the key of the low nibble; under `KEY_INDEX_POLICY = draw`, a free Boolean for a
value above 15. -/
def State.keyOf (s : State) (x : Byte) : Bool :=
  match s.cfg.keyIndexPolicy with
  | .mask => s.input.key[Fin.ofNat 16 x.toNat]
  | .draw => if 15 < x.toNat then s.input.keyDraw else s.input.key[Fin.ofNat 16 x.toNat]

/-- The end of FX55 and FX65: `I <- addr12(i + X + 1)` under `LS_INCREMENT_I`, with i the value I had
when the instruction began; else I is unchanged (R105, R106; log 32). -/
def State.lsIncrement (s : State) (i : Word) (x : Reg) : State :=
  if s.cfg.lsIncrementI then s.setI (i.toNat + x.val + 1) else s

end Sys2Proof.Machine
end

