-- ==== Sys2Proof/Machine/Alu.lean ====
section
/-! DEFINITION. Register load, arithmetic, logic, shift and random (spec/41_register_alu.md). Each ends
with `PC <- PC + 2`; the flag of 8XY4, 8XY5, 8XY6, 8XY7 and 8XYE is written last (R12, R93). -/

namespace Sys2Proof.Machine

/-- `V[X] <- r`, then PC + 2: the forms that write no flag. -/
def State.result (s : State) (x : Reg) (r : Byte) : State := (s.setV x r).advance

/-- `V[X] <- r`, then `VF <- f`, then PC + 2: the flag write is last, so with X = 15 it replaces the
result (R93). -/
def State.resultFlag (s : State) (x : Reg) (r f : Byte) : State := ((s.setV x r).setVF f).advance

/-- 6XNN (R81). -/
def exec6XNN (x : Reg) (nn : Byte) (s : State) : Host.Outcome State Fault Refusal :=
  .next (s.result x nn)

/-- 7XNN, "no flag effect" (R82). -/
def exec7XNN (x : Reg) (nn : Byte) (s : State) : Host.Outcome State Fault Refusal :=
  .next (s.result x (s.getV x + nn))

/-- 8XY0 (R83). -/
def exec8XY0 (x y : Reg) (s : State) : Host.Outcome State Fault Refusal :=
  .next (s.result x (s.getV y))

/-- 8XY1, or (R84). -/
def exec8XY1 (x y : Reg) (s : State) : Host.Outcome State Fault Refusal :=
  .next (s.result x (s.getV x ||| s.getV y))

/-- 8XY2, and (R85). -/
def exec8XY2 (x y : Reg) (s : State) : Host.Outcome State Fault Refusal :=
  .next (s.result x (s.getV x &&& s.getV y))

/-- 8XY3, exclusive or (R86). -/
def exec8XY3 (x y : Reg) (s : State) : Host.Outcome State Fault Refusal :=
  .next (s.result x (s.getV x ^^^ s.getV y))

/-- 8XY4, add; VF is the carry (R87). -/
def exec8XY4 (x y : Reg) (s : State) : Host.Outcome State Fault Refusal :=
  .next (s.resultFlag x (s.getV x + s.getV y) (carryFlag (s.getV x) (s.getV y)))

/-- 8XY5, V[X] - V[Y]; VF is not borrow (R88). -/
def exec8XY5 (x y : Reg) (s : State) : Host.Outcome State Fault Refusal :=
  .next (s.resultFlag x (s.getV x - s.getV y) (notBorrowFlag (s.getV x) (s.getV y)))

/-- 8XY6, V[X] shifted right by one; VF is the old bit 0; V[Y] is not used (R89). -/
def exec8XY6 (x _y : Reg) (s : State) : Host.Outcome State Fault Refusal :=
  .next (s.resultFlag x (s.getV x >>> 1) (shiftedOutRight (s.getV x)))

/-- 8XY7, V[Y] - V[X]; VF is not borrow (R90). -/
def exec8XY7 (x y : Reg) (s : State) : Host.Outcome State Fault Refusal :=
  .next (s.resultFlag x (s.getV y - s.getV x) (notBorrowFlag (s.getV y) (s.getV x)))

/-- 8XYE, V[X] shifted left by one; VF is the old bit 7; V[Y] is not used (R91). -/
def exec8XYE (x _y : Reg) (s : State) : Host.Outcome State Fault Refusal :=
  .next (s.resultFlag x (s.getV x <<< 1) (shiftedOutLeft (s.getV x)))

/-- CXNN, RND and NN (R92, R96). -/
def execCXNN (x : Reg) (nn : Byte) (s : State) : Host.Outcome State Fault Refusal :=
  .next (s.result x (s.input.rnd &&& nn))

end Sys2Proof.Machine
end

