-- ==== Sys2Proof/Machine/Display.lean ====
section
/-! DEFINITION. Clear screen and sprite draw (spec/43_display.md). -/

namespace Sys2Proof.Machine

/-- Write the framebuffer and set DIRTY, "whether or not any cell changed value" (R19). -/
def State.show (s : State) (fb : Framebuffer) : State := { s with fb := fb, dirty := true }

/-- 00E0 (R116). -/
def exec00E0 (s : State) : Host.Outcome State Fault Refusal :=
  .next (s.show Framebuffer.blank).advance

/-- What DXYN draws: the N bytes at I, from column V[X] and row V[Y] (R117). -/
def State.drawing (s : State) (x y : Reg) (n : Fin 16) : Drawing :=
  drawRows (s.spriteBytes n) (s.getV x).toNat (s.getV y).toNat (s.fb, false)

/-- DXYN; VF is the collision, written last (R117). -/
def execDXYN (x y : Reg) (n : Fin 16) (s : State) : Host.Outcome State Fault Refusal :=
  .next (((s.show (s.drawing x y n).1).setVF (collisionFlag (s.drawing x y n).2)).advance)

end Sys2Proof.Machine
end

