-- ==== Sys2Proof/Machine/Flow.lean ====
section
/-! DEFINITION. Control transfer and register skips (spec/40_flow_and_skips.md). -/

namespace Sys2Proof.Machine

/-- 00EE, return: `PC <- popped + 2`, or StackUnderflow (R66). -/
def exec00EE (s : State) : Host.Outcome State Fault Refusal :=
  .next (match s.pop with
    | some (w, t) => t.setPc (w + 2)
    | none => s.raise .stackUnderflow)

/-- 1NNN, jump (R67). The target is not checked here (R65). -/
def exec1NNN (nnn : Addr) (s : State) : Host.Outcome State Fault Refusal :=
  .next (s.setPc (targetNNN nnn))

/-- 2NNN, call: push the address of this 2NNN and jump, or StackOverflow (R68). -/
def exec2NNN (nnn : Addr) (s : State) : Host.Outcome State Fault Refusal :=
  .next (match s.push s.pc with
    | some t => t.setPc (targetNNN nnn)
    | none => s.raise .stackOverflow)

/-- BNNN, indexed jump to `NNN + V0` (R69). -/
def execBNNN (nnn : Addr) (s : State) : Host.Outcome State Fault Refusal :=
  .next (s.setPc (s.indexedTarget nnn))

/-- 3XNN, skip if V[X] = NN (R70). -/
def exec3XNN (x : Reg) (nn : Byte) (s : State) : Host.Outcome State Fault Refusal :=
  .next (s.skipIf (s.getV x == nn))

/-- 4XNN, skip if V[X] ≠ NN (R71). -/
def exec4XNN (x : Reg) (nn : Byte) (s : State) : Host.Outcome State Fault Refusal :=
  .next (s.skipIf (s.getV x != nn))

/-- 5XY0, skip if V[X] = V[Y] (R72). -/
def exec5XY0 (x y : Reg) (s : State) : Host.Outcome State Fault Refusal :=
  .next (s.skipIf (s.getV x == s.getV y))

/-- 9XY0, skip if V[X] ≠ V[Y] (R73). -/
def exec9XY0 (x y : Reg) (s : State) : Host.Outcome State Fault Refusal :=
  .next (s.skipIf (s.getV x != s.getV y))

end Sys2Proof.Machine
end

