-- ==== Sys2Proof/Machine/Index.lean ====
section
/-! DEFINITION. Index register, decimal conversion, register store and load
(spec/42_index_and_memory.md). Each ends with `PC <- PC + 2`. -/

namespace Sys2Proof.Machine

/-- `for k = 0 to X: MemWrite(I + k, 1, V[k])` over a list of registers, ascending (R105). -/
def State.storeRegs (s : State) (rs : List Reg) : State :=
  rs.foldl (fun t k => t.writeByte (s.effAddr k.val) (s.getV k)) s

/-- `for k = 0 to X: V[k] <- MemRead(i + k, 1)` over a list of registers, ascending (R106). -/
def State.loadRegs (s : State) (rs : List Reg) : State :=
  rs.foldl (fun t k => t.setV k (s.readByte (s.effAddr k.val))) s

/-- ANNN (R101). -/
def execANNN (nnn : Addr) (s : State) : Host.Outcome State Fault Refusal :=
  .next (s.setI nnn.toNat).advance

/-- FX1E, `I <- addr12(I + V[X])`; VF is the address overflow, written last (R102). -/
def execFX1E (x : Reg) (s : State) : Host.Outcome State Fault Refusal :=
  .next (((s.setI (s.i.toNat + (s.getV x).toNat)).setVF
    (addressOverflowFlag s.i (s.getV x))).advance)

/-- FX29, `I <- V[X] * 5` (R103). -/
def execFX29 (x : Reg) (s : State) : Host.Outcome State Fault Refusal :=
  .next (s.setI (glyphAddr (s.getV x))).advance

/-- FX33, hundreds, tens and units of V[X] at I, I + 1, I + 2 (R104). -/
def execFX33 (x : Reg) (s : State) : Host.Outcome State Fault Refusal :=
  .next (s.writeBytes s.i.toNat (decimalDigits (s.getV x))).advance

/-- FX55, store V0 to VX at I (R105). -/
def execFX55 (x : Reg) (s : State) : Host.Outcome State Fault Refusal :=
  .next ((s.storeRegs (regsUpTo x)).lsIncrement s.i x).advance

/-- FX65, load V0 to VX from I (R106). -/
def execFX65 (x : Reg) (s : State) : Host.Outcome State Fault Refusal :=
  .next ((s.loadRegs (regsUpTo x)).lsIncrement s.i x).advance

end Sys2Proof.Machine
end

