-- ==== Sys2Proof/Machine/Keys.lean ====
section
/-! DEFINITION. Key skips, key wait and timer access (spec/44_keys_and_timers.md). -/

namespace Sys2Proof.Machine

/-- EX9E, skip if the key V[X] is pressed (R126). -/
def execEX9E (x : Reg) (s : State) : Host.Outcome State Fault Refusal :=
  .next (s.skipIf (s.keyOf (s.getV x)))

/-- EXA1, skip if the key V[X] is not pressed (R127). -/
def execEXA1 (x : Reg) (s : State) : Host.Outcome State Fault Refusal :=
  .next (s.skipIf (!s.keyOf (s.getV x)))

/-- FX0A, wait for a key: with a key down, its number and PC + 2; with none, PC and V[X] stay (R128). -/
def execFX0A (x : Reg) (s : State) : Host.Outcome State Fault Refusal :=
  .next (match s.pickKey with
    | some k => (s.setV x (BitVec.ofNat 8 k.val)).advance
    | none => s)

/-- FX07, the value before this Step's own TimerTick (R129). -/
def execFX07 (x : Reg) (s : State) : Host.Outcome State Fault Refusal :=
  .next (s.setV x s.dt).advance

/-- FX15 (R130). -/
def execFX15 (x : Reg) (s : State) : Host.Outcome State Fault Refusal :=
  .next (s.setDT (s.getV x)).advance

/-- FX18 (R131). -/
def execFX18 (x : Reg) (s : State) : Host.Outcome State Fault Refusal :=
  .next (s.setST (s.getV x)).advance

end Sys2Proof.Machine
end

