-- ==== Sys2Proof/Machine/Step.lean ====
section
/-! DEFINITION. The Step (spec/30_encoding.md R56), and placing one instruction where it is fetched. -/

namespace Sys2Proof.Machine

/-- One Step: the outputs are cleared, then the tests of R147 in their order, then the instruction or the
report of an unknown opcode, then the end that every Step has. -/
def step (s : State) : Host.Outcome State Fault Refusal :=
  match s.clearOutputs.fetch with
  | .halted => .next s.clearOutputs.finishStep
  | .badPc => .next (s.clearOutputs.raise .pcFault).finishStep
  | .word w =>
    match decodeWord w with
    | none => .next (s.clearOutputs.unknownOpcode w).finishStep
    | some i =>
      match exec i s.clearOutputs with
      | .next t => .next t.finishStep
      | .fault r => .fault r
      | .refused r => .refused r

/-- The state made able to fetch: where a fault is latched or PC is no address a Step can fetch from,
the latch is cleared and PC is the entry point; any other state is left as it is (log 31). -/
def State.readyToFetch (s : State) : State :=
  if s.fault = .none ∧ fetchable s.pc = true then s else { s with fault := .none, pc := 0x0200 }

/-- The state with one instruction of the opcode table stored at PC, more significant byte first; the
bits above `nbits` are zero (log 22). -/
def State.withFetchWord (s : State) (nbits w : Nat) : State :=
  s.readyToFetch.writeBytes s.readyToFetch.pc.toNat
    (wordBytes (BitVec.ofNat 16 (w % 2 ^ nbits)))

end Sys2Proof.Machine
end

