-- ==== Sys2Proof/Safety.lean ====
section
/-! DEFINITION. What counts as a safe run, the invariant of the machine, and the frame vocabulary the
statements use. -/

namespace Sys2Proof.Machine

/-! ## Safe states and runs -/

/-- No fault is latched: the machine is not halted (spec/60_exceptions.md R149). -/
def State.running (s : State) : Prop := s.fault = .none

/-- A safe state: no fault, and the last Step met no unknown opcode (R144 lets a claim take "no unknown
opcode was reported" as a premise). -/
def State.safe (s : State) : Prop := s.running ∧ s.unknownOp = none

/-- The end of a run as R171 defines it for stating results: no fault, and PC holds the address of a
1NNN whose NNN is that same address. -/
def State.atSelfJump (s : State) : Prop :=
  s.running ∧ fetchable s.pc = true ∧
    decodeWord (s.readWord s.pc.toNat) = some (.op1NNN (s.pc.extractLsb 11 0))

/-- The host makes no move between this Step and the next. -/
def State.hostIdle (s : State) : Prop := s.input.after = []

/-- What holds after Reset and after every Step and host move (R26; R13 for I; R66 for the stack: every
entry in use is the address of a 2NNN that was fetched), with memory in its canonical form. -/
structure State.Inv (s : State) : Prop where
  memory : Memory.wf s.cfg.fontTable s.mem = true
  index  : s.i.toNat < 4096
  stack  : ∀ (k : Nat) (h : k < s.sp.val), fetchable (s.stack[k]'(by omega)) = true

/-! ## What an instruction leaves unchanged -/

/-- Every general register but the listed ones. -/
def KeepsRegsBut (rs : List Reg) (s t : State) : Prop := ∀ r, r ∉ rs → t.getV r = s.getV r

/-- Every byte of memory but those at the listed addresses. -/
def KeepsBytesBut (as : List Nat) (s t : State) : Prop :=
  ∀ a, addr12 a ∉ as → t.readByte a = s.readByte a

/-- Every byte of memory. -/
def KeepsMemory (s t : State) : Prop := ∀ a, t.readByte a = s.readByte a

/-- SP and every stack entry. -/
def KeepsStack (s t : State) : Prop := t.sp = s.sp ∧ t.stack = s.stack

/-- DT and ST. -/
def KeepsTimers (s t : State) : Prop := t.dt = s.dt ∧ t.st = s.st

/-- The framebuffer and DIRTY. -/
def KeepsScreen (s t : State) : Prop := t.fb = s.fb ∧ t.dirty = s.dirty

/-- FAULT, and the model's own fields: the parameters, the inputs and the outputs. -/
def KeepsRest (s t : State) : Prop :=
  t.fault = s.fault ∧ t.cfg = s.cfg ∧ t.inputs = s.inputs ∧ t.draws = s.draws ∧
    t.unknownOp = s.unknownOp ∧ t.tones = s.tones

/-- Everything but the general registers, PC and I. -/
def KeepsBeyondRegs (s t : State) : Prop :=
  KeepsMemory s t ∧ KeepsStack s t ∧ KeepsTimers s t ∧ KeepsScreen s t ∧ KeepsRest s t

/-- Everything but PC. -/
def KeepsAllButPc (s t : State) : Prop :=
  KeepsRegsBut [] s t ∧ t.i = s.i ∧ KeepsBeyondRegs s t

/-- All state the spec gives the machine but FAULT: V, I, PC, SP, S, DT, ST, FB, DIRTY, memory (R148). -/
def KeepsCore (s t : State) : Prop :=
  t.v = s.v ∧ t.i = s.i ∧ t.pc = s.pc ∧ KeepsStack s t ∧ KeepsTimers s t ∧ KeepsScreen s t ∧
    t.mem = s.mem ∧ t.cfg = s.cfg

/-- The instruction answers a next state in which V[x] is `r`, PC has moved on by 2, and nothing else has
changed: the forms that write one register and no flag. -/
def CompletesWith (i : Instr) (s : State) (x : Reg) (r : Nat) : Prop :=
  ∃ t, exec i s = .next t ∧ (t.getV x).toNat = r ∧ t.pc = s.pc + 2 ∧ t.i = s.i ∧
    KeepsRegsBut [x] s t ∧ KeepsBeyondRegs s t

/-- The instruction answers a next state in which VF is `f`, V[x] is `r` unless it is VF, PC has moved on
by 2, and nothing else has changed: the arithmetic forms with a flag, which is written last (R93). -/
def CompletesWithFlag (i : Instr) (s : State) (x : Reg) (r f : Nat) : Prop :=
  ∃ t, exec i s = .next t ∧ (t.getV 15).toNat = f ∧ (x ≠ 15 → (t.getV x).toNat = r) ∧
    t.pc = s.pc + 2 ∧ t.i = s.i ∧ KeepsRegsBut [x, 15] s t ∧ KeepsBeyondRegs s t

/-! ## Classes of instructions -/

/-- The seven instructions that write VF as a flag (R11). -/
def flagWriter : Instr → Bool
  | .op8XY4 _ _ | .op8XY5 _ _ | .op8XY6 _ _ | .op8XY7 _ _ | .op8XYE _ _ => true
  | .opDXYN _ _ _ | .opFX1E _ => true
  | _ => false

/-- The general registers an instruction has as destinations, the flag left out (R10, R11). -/
def destRegs : Instr → List Reg
  | .op6XNN x _ | .op7XNN x _ | .opCXNN x _ => [x]
  | .op8XY0 x _ | .op8XY1 x _ | .op8XY2 x _ | .op8XY3 x _ | .op8XY4 x _ | .op8XY5 x _ => [x]
  | .op8XY6 x _ | .op8XY7 x _ | .op8XYE x _ => [x]
  | .opFX07 x | .opFX0A x => [x]
  | .opFX65 x => regsUpTo x
  | _ => []

/-- The addresses an instruction stores to (R37). -/
def storedAddrs (s : State) : Instr → List Nat
  | .opFX33 _ => [s.effAddr 0, s.effAddr 1, s.effAddr 2]
  | .opFX55 x => (List.range (x.val + 1)).map s.effAddr
  | _ => []

/-! ## Sprites and ticks -/

/-- The cell (cx, cy) lies under a set bit of the sprite that DXYN draws: row `row`, column `col` of the
N bytes at I, both coordinates wrapped on their own, bit 7 leftmost (R117, R118). -/
def State.spriteCovers (s : State) (x y : Reg) (n : Fin 16) (cy : Fin 32) (cx : Fin 64) : Prop :=
  ∃ row < n.val, ∃ col < 8,
    cy.val = ((s.getV y).toNat + row) % 32 ∧ cx.val = ((s.getV x).toNat + col) % 64 ∧
    (s.readByte (s.i.toNat + row)).getLsbD (7 - col) = true

/-- The state after k TimerTicks (R154). -/
def State.ticks : Nat → State → State
  | 0, s => s
  | k + 1, s => (State.ticks k s).timerTick

/-- The state in which the next Step is given the input `x`. -/
def State.withInput (s : State) (x : StepInput) : State := { s with inputs := x :: s.inputs.tail }

/-- The next Step executes `i`: no fault, PC can be fetched from, and the word there is `i`'s. -/
def State.runsNext (s : State) (i : Instr) : Prop :=
  s.running ∧ fetchable s.pc = true ∧ decodeWord (s.readWord s.pc.toNat) = some i

end Sys2Proof.Machine
end

