-- ==== Sys2Proof/Certificates/Slice0/Obligations.lean ====
section
/-! DEFINITION. The statements for the provers, from the numbered rules of spec/. "Frame" words (KeepsMemory
and the like), the invariant and the instruction classes are defined in Sys2Proof/Safety.lean. -/

open Sys2Proof Sys2Proof.Machine

/-! ## Encoding -/

/-- Words written out from the patterns of R51 decode to the instructions they stand for. -/
def Obligations.WrittenWordsDecode : Prop :=
  decodeWord 0x00E0 = some .op00E0 ∧ decodeWord 0x2ABC = some (.op2NNN 0xABC) ∧
  decodeWord 0x8124 = some (.op8XY4 1 2) ∧ decodeWord 0xF255 = some (.opFX55 2) ∧
  decodeWord 0xD125 = some (.opDXYN 1 2 5) ∧ decodeWord 0xE39E = some (.opEX9E 3) ∧
  decodeWord 0x5121 = none ∧ decodeWord 0x0123 = none

/-- Decoding the word, or the bytes, of a well-formed instruction gives it back, with every operand. -/
def Obligations.DecodeOfEncode : Prop :=
  ∀ i : Instr, i.wellFormed = true →
    decodeWord (encode i) = some i ∧ ∀ rest, decode (encodeBytes i ++ rest) = .ok (i, rest)

/-- Each word has one meaning: a word that decodes is the word its instruction encodes to. -/
def Obligations.EncodeOfDecode : Prop :=
  ∀ (w : Word) (i : Instr), decodeWord w = some i → encode i = w

/-- A word is the instruction of a row exactly if it matches the row's mask and match, and no word matches
two rows. That every literal digit must match is the spec's decision D7 (log 15). -/
def Obligations.DecodeIsExactMatch : Prop :=
  (∀ (w : Word), ∀ r ∈ opcodeMap,
    ((∃ i, decodeWord w = some i ∧ i.row = r) ↔ w &&& r.mask = r.value)) ∧
  (∀ (w : Word) (i : Instr), decodeWord w = some i → i.row ∈ opcodeMap) ∧
  (∀ (w : Word), ∀ r ∈ opcodeMap, ∀ q ∈ opcodeMap,
    w &&& r.mask = r.value → w &&& q.mask = q.value → r = q)

/-- The unknown words are those of the table of R53 (its membership column), which the spec marks as
derived. -/
def Obligations.UnknownWordsAreTheListed : Prop :=
  ∀ w : Word, decodeWord w = none ↔
    (w.toNat / 4096 = 0x0 ∧ w.toNat ≠ 0x00E0 ∧ w.toNat ≠ 0x00EE) ∨
    ((w.toNat / 4096 = 0x5 ∨ w.toNat / 4096 = 0x9) ∧ w.toNat % 16 ≠ 0) ∨
    (w.toNat / 4096 = 0x8 ∧ w.toNat % 16 ∈ [0x8, 0x9, 0xA, 0xB, 0xC, 0xD, 0xF]) ∨
    (w.toNat / 4096 = 0xE ∧ w.toNat % 256 ∉ [0x9E, 0xA1]) ∨
    (w.toNat / 4096 = 0xF ∧
      w.toNat % 256 ∉ [0x07, 0x0A, 0x15, 0x18, 0x1E, 0x29, 0x33, 0x55, 0x65])

/-! ## The Step -/

/-- When the word at PC decodes to `i` (no fault, PC fetchable), the Step is `i` executed on the state
with the outputs cleared, and then the end every Step has (`State.finishStep`). -/
def Obligations.StepRunsDecodedInstruction : Prop :=
  ∀ (s : State) (i : Instr), s.runsNext i →
    ∃ u, exec i s.clearOutputs = .next u ∧ step s = .next u.finishStep

/-- The end of a Step after which the host makes no move: one TimerTick under `per_step` if no fault is
latched (the spec's decisions D1, D12, D19; log 17, 21), none under `external_tick`, nothing else. That one
input is used up (log 3) and that the outputs are read from the state after the Step (log 6) are the
model's choices. -/
def Obligations.StepEndsWithTick : Prop :=
  ∀ u : State, u.hostIdle →
    KeepsRegsBut [] u u.finishStep ∧ u.finishStep.i = u.i ∧ u.finishStep.pc = u.pc ∧
    KeepsStack u u.finishStep ∧ KeepsScreen u u.finishStep ∧ KeepsMemory u u.finishStep ∧
    u.finishStep.fault = u.fault ∧ u.finishStep.cfg = u.cfg ∧
    u.finishStep.unknownOp = u.unknownOp ∧
    u.finishStep.inputs = u.inputs.tail ∧ u.finishStep.draws = u.draws + 1 ∧
    (u.fault = .none → u.cfg.timerMode = .perStep →
      u.finishStep.dt.toNat = u.dt.toNat - 1 ∧ u.finishStep.st.toNat = u.st.toNat - 1 ∧
      u.finishStep.toneReq = (u.st == 1)) ∧
    (u.fault ≠ .none ∨ u.cfg.timerMode = .externalTick →
      KeepsTimers u u.finishStep ∧ u.finishStep.tones = u.tones)

/-- An unknown opcode is reported and passed over, the timer-decrement part of the Step still runs, and
nothing else happens (R52). The report as an output is the spec's decision D16 (log 35), read from the state
after the Step (log 6, the model's choice); that R52 has no exception is the spec's own reading of the source
(N10, log 35); when the timers tick is decisions D1 and D19 (log 21). -/
def Obligations.UnknownOpcodePassedOver : Prop :=
  ∀ s : State, s.running → fetchable s.pc = true → decodeWord (s.readWord s.pc.toNat) = none →
    s.hostIdle →
    ∃ t, step s = .next t ∧ t.unknownOp = some (s.readWord s.pc.toNat) ∧ t.pc = s.pc + 2 ∧
      t.fault = .none ∧ KeepsRegsBut [] s t ∧ t.i = s.i ∧ KeepsStack s t ∧ KeepsScreen s t ∧
      KeepsMemory s t ∧
      (s.cfg.timerMode = .perStep →
        t.dt.toNat = s.dt.toNat - 1 ∧ t.st.toNat = s.st.toNat - 1) ∧
      (s.cfg.timerMode = .externalTick → KeepsTimers s t)

/-- A Step whose PC is odd or outside 0x200 to 0xFFE raises PcFault (R141). That the fault is latched and
nothing else changes is the spec's decision D2 (log 7). -/
def Obligations.BadPcFaults : Prop :=
  ∀ s : State, s.running →
    (s.pc.toNat % 2 = 1 ∨ s.pc.toNat < 0x200 ∨ 0xFFE < s.pc.toNat) → s.hostIdle →
    ∃ t, step s = .next t ∧ t.fault = .pcFault ∧ KeepsCore s t ∧ t.unknownOp = none ∧ t.toneReq = false

/-- A Step that raises a fault has no other effect, no TimerTick and no output: the spec's decisions D2
and D19 (log 7, 21). -/
def Obligations.FaultingStepIsPrecise : Prop :=
  ∀ s t : State, step s = .next t → s.running → s.hostIdle → t.fault ≠ .none →
    KeepsCore s t ∧ t.unknownOp = none ∧ t.toneReq = false

/-- The three faults, when each is raised, and that nothing else raises one; their codes are the spec's
decision D3. -/
def Obligations.FaultsAreTheThree : Prop :=
  (∀ s t : State, step s = .next t → s.running → s.hostIdle →
    (fetchable s.pc = false → t.fault = .pcFault) ∧
    (∀ i, s.runsNext i →
      (∀ nnn, i = .op2NNN nnn → s.sp.val = 16 → t.fault = .stackOverflow) ∧
      (i = .op00EE → s.sp.val = 0 → t.fault = .stackUnderflow) ∧
      ((∀ nnn, i = .op2NNN nnn → s.sp.val ≠ 16) → (i = .op00EE → s.sp.val ≠ 0) → t.fault = .none)) ∧
    (fetchable s.pc = true → decodeWord (s.readWord s.pc.toNat) = none → t.fault = .none)) ∧
  FaultCode.code .none = 0 ∧ FaultCode.code .pcFault = 1 ∧ FaultCode.code .stackOverflow = 2 ∧
  FaultCode.code .stackUnderflow = 3

/-- While a fault is latched a Step changes nothing and produces no output, and so does a TimerTick; Reset
clears the latch: the spec's decision D2 (log 7). That the Step's input is used up (log 8) and that outputs
are read from the state (log 6) are the model's choices. -/
def Obligations.HaltedMachineStays : Prop :=
  ∀ s : State, s.fault ≠ .none →
    (s.hostIdle → ∃ t, step s = .next t ∧ KeepsCore s t ∧ t.fault = s.fault ∧ t.unknownOp = none ∧
      t.toneReq = false) ∧
    (KeepsCore s s.timerTick ∧ s.timerTick.fault = s.fault ∧ s.timerTick.toneReq = false) ∧
    s.hostReset.fault = .none

/-- Once latched, a fault stays through a Step and every host move that is no Reset (decision D2, log 7). -/
def Obligations.FaultLatchedUntilReset : Prop :=
  ∀ s t : State, step s = .next t → s.fault ≠ .none →
    (∀ m ∈ s.input.after, m = .timerTick ∨ m = .clearDirty) → t.fault = s.fault

/-- Every Step from every state answers a next state: the machine never stops by itself. That a faulting and a
halted Step answer one too, with the latch in the state and not as a fault of the step function, rests on the
spec's decision D2, whose notes allow either form (log 7). -/
def Obligations.StepAlwaysAnswers : Prop := ∀ s : State, ∃ t, step s = .next t

/-! ## Control transfer -/

/-- R67: 1NNN sets PC to NNN, not checked, and changes nothing else. -/
def Obligations.JumpSetsPc : Prop :=
  ∀ (s : State) (nnn : Addr),
    ∃ t, exec (.op1NNN nnn) s = .next t ∧ t.pc.toNat = nnn.toNat ∧ KeepsAllButPc s t

/-- BNNN sets PC to NNN + V0 (R69) and changes nothing else. That the sum is not reduced to 12 bits is the
spec's decision D4 (log 12). -/
def Obligations.IndexedJumpAddsV0 : Prop :=
  ∀ (s : State) (nnn : Addr),
    ∃ t, exec (.opBNNN nnn) s = .next t ∧ t.pc.toNat = nnn.toNat + (s.getV 0).toNat ∧
      KeepsAllButPc s t

/-- R68: 2NNN pushes its own address and jumps; with 16 entries in use it raises StackOverflow and has no
other effect. -/
def Obligations.CallPushesItsAddress : Prop :=
  ∀ (s : State) (nnn : Addr),
    (∀ h : s.sp.val < 16, ∃ t, exec (.op2NNN nnn) s = .next t ∧
      t.stack = s.stack.set s.sp.val s.pc ∧ t.sp.val = s.sp.val + 1 ∧ t.pc.toNat = nnn.toNat ∧
      KeepsRegsBut [] s t ∧ t.i = s.i ∧ KeepsMemory s t ∧ KeepsTimers s t ∧ KeepsScreen s t ∧
      KeepsRest s t) ∧
    (s.sp.val = 16 → ∃ t, exec (.op2NNN nnn) s = .next t ∧ t.fault = .stackOverflow ∧ KeepsCore s t)

/-- R66: 00EE goes on after the popped address and leaves the entry in the array; with an empty stack it
raises StackUnderflow and has no other effect. -/
def Obligations.ReturnPopsAndAddsTwo : Prop :=
  ∀ s : State,
    (∀ h : 0 < s.sp.val, ∃ t, exec .op00EE s = .next t ∧
      t.sp.val = s.sp.val - 1 ∧ t.pc = s.stack[s.sp.val - 1]'(by omega) + 2 ∧ t.stack = s.stack ∧
      KeepsRegsBut [] s t ∧ t.i = s.i ∧ KeepsMemory s t ∧ KeepsTimers s t ∧ KeepsScreen s t ∧
      KeepsRest s t) ∧
    (s.sp.val = 0 → ∃ t, exec .op00EE s = .next t ∧ t.fault = .stackUnderflow ∧ KeepsCore s t)

/-- Where every entry in use is the address of a fetched 2NNN (the invariant), 00EE lands on an even
address in 0x202 to 0x1000, and on 0x1000 only when the call stood at 0xFFE. The spec marks this as
derived. -/
def Obligations.ReturnLandsAfterACall : Prop :=
  ∀ s t : State, s.Inv → exec .op00EE s = .next t → (h : 0 < s.sp.val) →
    t.pc.toNat % 2 = 0 ∧ 0x202 ≤ t.pc.toNat ∧ t.pc.toNat ≤ 0x1000 ∧
      (t.pc = 0x1000 ↔ s.stack[s.sp.val - 1]'(by omega) = 0x0FFE)

/-- A 2NNN and then a 00EE come back to the address after the 2NNN with the same number of entries. -/
def Obligations.ReturnUndoesCall : Prop :=
  ∀ (s t : State) (nnn : Addr), s.sp.val < 16 → exec (.op2NNN nnn) s = .next t →
    ∃ u, exec .op00EE t = .next u ∧ u.pc = s.pc + 2 ∧ u.sp = s.sp ∧
      ∀ (k : Nat) (h : k < s.sp.val), u.stack[k]'(by omega) = s.stack[k]'(by omega)

/-- R70, R71: 3XNN and 4XNN pass over one instruction exactly if V[X] is, or is not, NN. -/
def Obligations.SkipsOnImmediate : Prop :=
  ∀ (s : State) (x : Reg) (nn : Byte),
    (∃ t, exec (.op3XNN x nn) s = .next t ∧
      t.pc = (if s.getV x = nn then s.pc + 4 else s.pc + 2) ∧ KeepsAllButPc s t) ∧
    (∃ t, exec (.op4XNN x nn) s = .next t ∧
      t.pc = (if s.getV x ≠ nn then s.pc + 4 else s.pc + 2) ∧ KeepsAllButPc s t)

/-- R72, R73: 5XY0 and 9XY0 pass over one instruction exactly if V[X] and V[Y] are equal, or differ. -/
def Obligations.SkipsOnRegisters : Prop :=
  ∀ (s : State) (x y : Reg),
    (∃ t, exec (.op5XY0 x y) s = .next t ∧
      t.pc = (if s.getV x = s.getV y then s.pc + 4 else s.pc + 2) ∧ KeepsAllButPc s t) ∧
    (∃ t, exec (.op9XY0 x y) s = .next t ∧
      t.pc = (if s.getV x ≠ s.getV y then s.pc + 4 else s.pc + 2) ∧ KeepsAllButPc s t)

/-- Where PC goes after every instruction and every unknown opcode, and that a skip never wraps (R57). That PC
stays for a 2NNN with 16 entries in use and for a 00EE with none is not in the table of R57: it is from R68 and
R66, and that a fault changes no PC is the spec's decision D2 (log 7). That PC is not reduced to 12 bits is
its decision D4 (log 12). -/
def Obligations.PcPolicyOfEveryInstruction : Prop :=
  (∀ (i : Instr) (s t : State), exec i s = .next t →
    match i with
    | .op1NNN nnn => t.pc.toNat = nnn.toNat
    | .op2NNN nnn => if s.sp.val = 16 then t.pc = s.pc else t.pc.toNat = nnn.toNat
    | .op00EE => if h : 0 < s.sp.val then t.pc = s.stack[s.sp.val - 1]'(by omega) + 2 else t.pc = s.pc
    | .opBNNN nnn => t.pc.toNat = nnn.toNat + (s.getV 0).toNat
    | .op3XNN x nn => t.pc = if s.getV x = nn then s.pc + 4 else s.pc + 2
    | .op4XNN x nn => t.pc = if s.getV x ≠ nn then s.pc + 4 else s.pc + 2
    | .op5XY0 x y => t.pc = if s.getV x = s.getV y then s.pc + 4 else s.pc + 2
    | .op9XY0 x y => t.pc = if s.getV x ≠ s.getV y then s.pc + 4 else s.pc + 2
    | .opEX9E x => t.pc = if s.keyOf (s.getV x) = true then s.pc + 4 else s.pc + 2
    | .opEXA1 x => t.pc = if s.keyOf (s.getV x) = false then s.pc + 4 else s.pc + 2
    | .opFX0A _ =>
      ((∃ k : Fin 16, s.input.key[k] = true) → t.pc = s.pc + 2) ∧
      ((∀ k : Fin 16, s.input.key[k] = false) → t.pc = s.pc)
    | _ => t.pc = s.pc + 2) ∧
  (∀ (s : State) (w : Word), (s.unknownOpcode w).pc = s.pc + 2) ∧
  (∀ pc : Word, fetchable pc = true →
    (pc + 2).toNat = pc.toNat + 2 ∧ (pc + 4).toNat = pc.toNat + 4 ∧ (pc + 4).toNat ≤ 0x1002)

/-- A machine at a self-jump (R171) stays there while the host makes no move: only the timers, the outputs
and the input side change. -/
def Obligations.SelfJumpStays : Prop :=
  ∀ s : State, s.atSelfJump → s.hostIdle →
    ∃ t, step s = .next t ∧ t.atSelfJump ∧ t.pc = s.pc ∧ KeepsRegsBut [] s t ∧ t.i = s.i ∧
      KeepsMemory s t ∧ KeepsStack s t ∧ KeepsScreen s t ∧ t.unknownOp = none

/-! ## Register load, arithmetic, logic, shift, random -/

/-- R81, R82: 6XNN loads NN, 7XNN adds it modulo 256 and writes no flag. -/
def Obligations.ImmediateLoadAndAdd : Prop :=
  ∀ (s : State) (x : Reg) (nn : Byte),
    CompletesWith (.op6XNN x nn) s x nn.toNat ∧
    CompletesWith (.op7XNN x nn) s x (((s.getV x).toNat + nn.toNat) % 256)

/-- R83 to R86: copy, or, and, exclusive or; no flag. -/
def Obligations.CopyAndLogic : Prop :=
  ∀ (s : State) (x y : Reg),
    CompletesWith (.op8XY0 x y) s x (s.getV y).toNat ∧
    CompletesWith (.op8XY1 x y) s x ((s.getV x).toNat ||| (s.getV y).toNat) ∧
    CompletesWith (.op8XY2 x y) s x ((s.getV x).toNat &&& (s.getV y).toNat) ∧
    CompletesWith (.op8XY3 x y) s x ((s.getV x).toNat ^^^ (s.getV y).toNat)

/-- R87: 8XY4 adds modulo 256, VF is the carry. -/
def Obligations.AddWithCarryOut : Prop :=
  ∀ (s : State) (x y : Reg),
    CompletesWithFlag (.op8XY4 x y) s x
      (((s.getV x).toNat + (s.getV y).toNat) % 256)
      (if 255 < (s.getV x).toNat + (s.getV y).toNat then 1 else 0)

/-- R88, R90: 8XY5 and 8XY7 subtract modulo 256, VF is the complement of the borrow. -/
def Obligations.SubtractWithNotBorrow : Prop :=
  ∀ (s : State) (x y : Reg),
    CompletesWithFlag (.op8XY5 x y) s x
      (if (s.getV y).toNat ≤ (s.getV x).toNat then (s.getV x).toNat - (s.getV y).toNat
        else (s.getV x).toNat + 256 - (s.getV y).toNat)
      (if (s.getV y).toNat > (s.getV x).toNat then 0 else 1) ∧
    CompletesWithFlag (.op8XY7 x y) s x
      (if (s.getV x).toNat ≤ (s.getV y).toNat then (s.getV y).toNat - (s.getV x).toNat
        else (s.getV y).toNat + 256 - (s.getV x).toNat)
      (if (s.getV x).toNat > (s.getV y).toNat then 0 else 1)

/-- R89, R91: 8XY6 and 8XYE shift V[X] by one, VF is the bit shifted out; V[Y] is not used. -/
def Obligations.ShiftsByOne : Prop :=
  ∀ (s : State) (x y : Reg),
    CompletesWithFlag (.op8XY6 x y) s x ((s.getV x).toNat / 2) ((s.getV x).toNat % 2) ∧
    CompletesWithFlag (.op8XYE x y) s x ((s.getV x).toNat * 2 % 256) ((s.getV x).toNat / 128)

/-- R93, for all five: the flag is 0 or 1, with X = 15 the result is lost and VF ends as the flag, and with
Y = 15 the old VF is the second operand. -/
def Obligations.FlagReplacesResultInVF : Prop :=
  ∀ (s : State) (y : Reg),
    (∃ t, exec (.op8XY4 15 y) s = .next t ∧
      (t.getV 15).toNat = if 255 < (s.getV 15).toNat + (s.getV y).toNat then 1 else 0) ∧
    (∃ t, exec (.op8XY5 15 y) s = .next t ∧
      (t.getV 15).toNat = if (s.getV y).toNat > (s.getV 15).toNat then 0 else 1) ∧
    (∃ t, exec (.op8XY6 15 y) s = .next t ∧ (t.getV 15).toNat = (s.getV 15).toNat % 2) ∧
    (∃ t, exec (.op8XY7 15 y) s = .next t ∧
      (t.getV 15).toNat = if (s.getV 15).toNat > (s.getV y).toNat then 0 else 1) ∧
    (∃ t, exec (.op8XYE 15 y) s = .next t ∧ (t.getV 15).toNat = (s.getV 15).toNat / 128) ∧
    (∀ x : Reg, x ≠ 15 →
      (∃ t, exec (.op8XY4 x 15) s = .next t ∧
        (t.getV x).toNat = ((s.getV x).toNat + (s.getV 15).toNat) % 256) ∧
      (∃ t, exec (.op8XY5 x 15) s = .next t ∧
        (t.getV x).toNat = ((s.getV x).toNat + 256 - (s.getV 15).toNat) % 256) ∧
      (∃ t, exec (.op8XY7 x 15) s = .next t ∧
        (t.getV x).toNat = ((s.getV 15).toNat + 256 - (s.getV x).toNat) % 256)) ∧
    (∀ x : Reg, ∀ i ∈ [Instr.op8XY4 x y, .op8XY5 x y, .op8XY6 x y, .op8XY7 x y, .op8XYE x y],
      ∃ t, exec i s = .next t ∧ (t.getV 15 = 0 ∨ t.getV 15 = 1))

/-- R92: CXNN writes RND and NN, for every RND. -/
def Obligations.RandomIsMasked : Prop :=
  ∀ (s : State) (x : Reg) (nn : Byte),
    CompletesWith (.opCXNN x nn) s x (s.input.rnd.toNat &&& nn.toNat)

/-! ## Index register and memory -/

/-- R101: ANNN sets I to NNN and changes nothing else but PC. -/
def Obligations.IndexIsLoaded : Prop :=
  ∀ (s : State) (nnn : Addr), ∃ t, exec (.opANNN nnn) s = .next t ∧ t.i.toNat = nnn.toNat ∧
    t.pc = s.pc + 2 ∧ KeepsRegsBut [] s t ∧ KeepsBeyondRegs s t

/-- FX29 sets I to V[X] times 5 and changes nothing else but PC. That the whole byte is multiplied is the
spec's decision D20 (log 18). -/
def Obligations.GlyphAddressIsFiveTimesByte : Prop :=
  ∀ (s : State) (x : Reg), ∃ t, exec (.opFX29 x) s = .next t ∧ t.i.toNat = (s.getV x).toNat * 5 ∧
    t.pc = s.pc + 2 ∧ KeepsRegsBut [] s t ∧ KeepsBeyondRegs s t

/-- FX1E adds V[X] to I, VF is the overflow past 0xFFF, written last (R102). That I is reduced modulo 4096
is the spec's decision D5 (log 11). -/
def Obligations.IndexAddFlagsOverflow : Prop :=
  ∀ (s : State) (x : Reg), ∃ t, exec (.opFX1E x) s = .next t ∧
    t.i.toNat = (s.i.toNat + (s.getV x).toNat) % 4096 ∧
    (t.getV 15).toNat = (if 0xFFF < s.i.toNat + (s.getV x).toNat then 1 else 0) ∧
    t.pc = s.pc + 2 ∧ KeepsRegsBut [15] s t ∧ KeepsBeyondRegs s t

/-- R104: FX33 stores the three decimal digits of V[X] at I, I + 1, I + 2 modulo 4096 and nothing else. -/
def Obligations.DecimalDigitsAreStored : Prop :=
  ∀ (s : State) (x : Reg), ∃ t, exec (.opFX33 x) s = .next t ∧
    (t.readByte (s.i.toNat % 4096)).toNat = (s.getV x).toNat / 100 ∧
    (t.readByte ((s.i.toNat + 1) % 4096)).toNat = (s.getV x).toNat / 10 % 10 ∧
    (t.readByte ((s.i.toNat + 2) % 4096)).toNat = (s.getV x).toNat % 10 ∧
    KeepsBytesBut [s.effAddr 0, s.effAddr 1, s.effAddr 2] s t ∧
    t.i = s.i ∧ t.pc = s.pc + 2 ∧ KeepsRegsBut [] s t ∧
    KeepsStack s t ∧ KeepsTimers s t ∧ KeepsScreen s t ∧ KeepsRest s t

/-- FX55 stores V0 to VX at I onward and nothing else (R105). The two clauses on I rest on the parameter
`LS_INCREMENT_I`, the spec's decision D6 (log 32, log 1), and cover both of its values. -/
def Obligations.BlockStore : Prop :=
  ∀ (s : State) (x : Reg), ∃ t, exec (.opFX55 x) s = .next t ∧
    (∀ k : Reg, k ≤ x → t.readByte ((s.i.toNat + k.val) % 4096) = s.getV k) ∧
    KeepsBytesBut ((List.range (x.val + 1)).map s.effAddr) s t ∧
    (s.cfg.lsIncrementI = false → t.i = s.i) ∧
    (s.cfg.lsIncrementI = true → t.i.toNat = (s.i.toNat + x.val + 1) % 4096) ∧
    t.pc = s.pc + 2 ∧ KeepsRegsBut [] s t ∧
    KeepsStack s t ∧ KeepsTimers s t ∧ KeepsScreen s t ∧ KeepsRest s t

/-- FX65 loads V0 to VX from I onward, the registers above X keep their values, memory is not changed
(R106). The two clauses on I are the spec's own inference, "the spec treats FX65 like FX55", its decision D6
(log 32, log 1), and cover both values of `LS_INCREMENT_I`. -/
def Obligations.BlockLoad : Prop :=
  ∀ (s : State) (x : Reg), ∃ t, exec (.opFX65 x) s = .next t ∧
    (∀ k : Reg, k ≤ x → t.getV k = s.readByte ((s.i.toNat + k.val) % 4096)) ∧
    (∀ k : Reg, x < k → t.getV k = s.getV k) ∧
    (s.cfg.lsIncrementI = false → t.i = s.i) ∧
    (s.cfg.lsIncrementI = true → t.i.toNat = (s.i.toNat + x.val + 1) % 4096) ∧
    t.pc = s.pc + 2 ∧ KeepsBeyondRegs s t

/-- The round trip of R106: what FX55 stored, an FX65 from the same I gives back, in either setting of
`LS_INCREMENT_I`, whatever the registers hold in between. -/
def Obligations.BlockStoreLoadRoundTrip : Prop :=
  ∀ (s t u : State) (x : Reg), exec (.opFX55 x) s = .next t → KeepsMemory t u → u.i = s.i →
    ∃ w, exec (.opFX65 x) u = .next w ∧ ∀ r : Reg, r ≤ x → w.getV r = s.getV r

/-- R34: a byte read is the byte written there, any other byte is as before, addresses count modulo 4096,
and a two-byte read has the byte at the lower address in bits 15 to 8. -/
def Obligations.MemoryReadAfterWrite : Prop :=
  ∀ (s : State) (a b : Nat) (x : Byte),
    ((s.writeByte a x).readByte b = if b % 4096 = a % 4096 then x else s.readByte b) ∧
    s.readByte (a + 4096) = s.readByte a ∧
    (s.readWord a).toNat = (s.readByte a).toNat * 256 + (s.readByte (a + 1)).toNat

/-- Bytes that FX55 stores over the next instruction are what the very next fetch reads (R42, which
the spec marks as derived). -/
def Obligations.StoreSeenByNextFetch : Prop :=
  ∀ (s : State) (x : Reg), s.running → 1 ≤ x.val → s.i = s.pc + 2 → fetchable (s.pc + 2) = true →
    ∃ t, exec (.opFX55 x) s = .next t ∧ t.fetch = .word (bigEndian (s.getV 0) (s.getV 1))

/-! ## Display -/

/-- R116: 00E0 clears every cell and sets DIRTY. -/
def Obligations.ClearScreenBlanks : Prop :=
  ∀ s : State, ∃ t, exec .op00E0 s = .next t ∧ (∀ cy cx, t.fb.cell cy cx = false) ∧ t.dirty = true ∧
    t.pc = s.pc + 2 ∧ t.i = s.i ∧ KeepsRegsBut [] s t ∧ KeepsMemory s t ∧ KeepsStack s t ∧
    KeepsTimers s t ∧ KeepsRest s t

/-- DXYN toggles exactly the cells under a set bit of the sprite, VF is 1 exactly if one of them was lit,
DIRTY is set, and nothing else changes (R117). Which bit is column 0, DIRTY on an unchanged screen and the
case N = 0 are the spec's decisions D10, D25 and D23 (log 16, 20, 19). -/
def Obligations.SpriteIsXored : Prop :=
  ∀ (s : State) (x y : Reg) (n : Fin 16), ∃ t, exec (.opDXYN x y n) s = .next t ∧
    (∀ cy cx, s.spriteCovers x y n cy cx → t.fb.cell cy cx = !s.fb.cell cy cx) ∧
    (∀ cy cx, ¬ s.spriteCovers x y n cy cx → t.fb.cell cy cx = s.fb.cell cy cx) ∧
    ((∃ cy cx, s.spriteCovers x y n cy cx ∧ s.fb.cell cy cx = true) → t.getV 15 = 1) ∧
    ((¬ ∃ cy cx, s.spriteCovers x y n cy cx ∧ s.fb.cell cy cx = true) → t.getV 15 = 0) ∧
    t.dirty = true ∧ t.pc = s.pc + 2 ∧ t.i = s.i ∧ KeepsRegsBut [15] s t ∧ KeepsMemory s t ∧
    KeepsStack s t ∧ KeepsTimers s t ∧ KeepsRest s t

/-- The toggle law (R119): a second DXYN at the same coordinates restores the framebuffer, and reports
VF = 1 exactly if the sprite has a set bit on a cell that the first draw left lit. -/
def Obligations.DrawingTwiceRestores : Prop :=
  ∀ (s t : State) (x y : Reg) (n : Fin 16), exec (.opDXYN x y n) s = .next t →
    t.getV x = s.getV x → t.getV y = s.getV y →
    ∃ u, exec (.opDXYN x y n) t = .next u ∧ u.fb = s.fb ∧
      (u.getV 15 = 1 ↔ ∃ cy cx, s.spriteCovers x y n cy cx ∧ t.fb.cell cy cx = true)

/-! ## Keys and timers -/

/-- EX9E skips if the key is pressed, EXA1 if it is not (R126, R127). Which key a value above 15 names, that
of its low nibble under `mask` and a free Boolean under `draw`, is the spec's decision D8 (log 1); that the
free Boolean is a field of the Step's input is the model's choice (log 5). -/
def Obligations.SkipsOnKey : Prop :=
  ∀ (s : State) (x : Reg) (down : Bool),
    (s.cfg.keyIndexPolicy = .draw → 15 < (s.getV x).toNat → down = s.input.keyDraw) →
    (s.cfg.keyIndexPolicy = .mask ∨ (s.getV x).toNat ≤ 15 →
      down = s.input.key[(s.getV x).toNat % 16]'(Nat.mod_lt _ (by decide))) →
    (∃ t, exec (.opEX9E x) s = .next t ∧
      t.pc = (if down = true then s.pc + 4 else s.pc + 2) ∧ KeepsAllButPc s t) ∧
    (∃ t, exec (.opEXA1 x) s = .next t ∧
      t.pc = (if down = true then s.pc + 2 else s.pc + 4) ∧ KeepsAllButPc s t)

/-- With no key down FX0A changes nothing, PC included; with one down V[X] receives a pressed key and PC moves
on (R128). That it is the lowest or the highest of them where `KEY_PRIORITY` says so is the spec's decision
D9 (log 1); how the model reaches every pressed key under `any` is log 5. -/
def Obligations.KeyWait : Prop :=
  ∀ (s : State) (x : Reg),
    ((∀ k : Fin 16, s.input.key[k] = false) → exec (.opFX0A x) s = .next s) ∧
    ((∃ k : Fin 16, s.input.key[k] = true) → ∃ t, ∃ k : Fin 16, exec (.opFX0A x) s = .next t ∧
      s.input.key[k] = true ∧ (t.getV x).toNat = k.val ∧ t.pc = s.pc + 2 ∧ t.i = s.i ∧
      KeepsRegsBut [x] s t ∧ KeepsBeyondRegs s t ∧
      (s.cfg.keyPriority = .lowest → ∀ j : Fin 16, j < k → s.input.key[j] = false) ∧
      (s.cfg.keyPriority = .highest → ∀ j : Fin 16, k < j → s.input.key[j] = false))

/-- R129, R130, R131: FX07 reads DT, FX15 writes DT, FX18 writes ST, each before the Step's tick. -/
def Obligations.TimerAccess : Prop :=
  ∀ (s : State) (x : Reg),
    CompletesWith (.opFX07 x) s x s.dt.toNat ∧
    (∃ t, exec (.opFX15 x) s = .next t ∧ t.dt = s.getV x ∧ t.st = s.st ∧ t.pc = s.pc + 2 ∧ t.i = s.i ∧
      KeepsRegsBut [] s t ∧ KeepsMemory s t ∧ KeepsStack s t ∧ KeepsScreen s t ∧ KeepsRest s t) ∧
    (∃ t, exec (.opFX18 x) s = .next t ∧ t.st = s.getV x ∧ t.dt = s.dt ∧ t.pc = s.pc + 2 ∧ t.i = s.i ∧
      KeepsRegsBut [] s t ∧ KeepsMemory s t ∧ KeepsStack s t ∧ KeepsScreen s t ∧ KeepsRest s t)

/-- What a TimerTick changes, and its one output (R154). That the tone is requested by the tick that finds
ST = 1 is the spec's decision D12 (log 17); that the output is read from the state after the tick is the
model's choice (log 6). -/
def Obligations.TimerTickDecrements : Prop :=
  ∀ s : State,
    s.timerTick.tones = s.tones ++ [s.timerTick.toneReq] ∧
    (s.fault ≠ .none → KeepsCore s s.timerTick ∧ s.timerTick.fault = s.fault ∧
      s.timerTick.unknownOp = s.unknownOp ∧ s.timerTick.toneReq = false) ∧
    (s.fault = .none →
      (s.dt ≠ 0 → s.timerTick.dt.toNat = s.dt.toNat - 1) ∧ (s.dt = 0 → s.timerTick.dt = 0) ∧
      (s.st ≠ 0 → s.timerTick.st.toNat = s.st.toNat - 1) ∧ (s.st = 0 → s.timerTick.st = 0) ∧
      (s.timerTick.toneReq = true ↔ s.st = 1) ∧
      KeepsRegsBut [] s s.timerTick ∧ s.timerTick.i = s.i ∧ s.timerTick.pc = s.pc ∧
      KeepsMemory s s.timerTick ∧ KeepsStack s s.timerTick ∧ KeepsScreen s s.timerTick ∧
      s.timerTick.fault = s.fault)

/-- k TimerTicks lower DT by k and never below 0 (R152). -/
def Obligations.DelayTimerCountsDown : Prop :=
  ∀ (s : State) (k : Nat), s.running → (s.ticks k).dt.toNat = s.dt.toNat - k

/-- After FX18 writes v, the one tone request comes at the v-th TimerTick after it, and v = 0 gives none
(R156): the spec's decision D12 (log 17). The output is read from the state after the tick (log 6, the
model's choice). -/
def Obligations.OneToneAtTheVthTick : Prop :=
  ∀ (s t : State) (x : Reg) (k : Nat), s.running → exec (.opFX18 x) s = .next t → 1 ≤ k →
    ((t.ticks k).toneReq = true ↔ k = (s.getV x).toNat)

/-! ## Reset and the host -/

/-- Every piece of state after Reset, from any state, and in the model's first state (R24, R165). That DIRTY
is 0 and FAULT None is the spec's decision D13 (log 10). -/
def Obligations.ResetValues : Prop :=
  ∀ s : State, ∀ t ∈ [s.hostReset, State.reset],
    (∀ r, t.getV r = 0) ∧ t.i = 0 ∧ t.pc = 0x0200 ∧ t.sp = 0 ∧ (∀ k : Fin 16, t.stack[k] = 0) ∧
    t.dt = 0 ∧ t.st = 0 ∧ (∀ cy cx, t.fb.cell cy cx = false) ∧
    (∀ (a : Nat) (h : a < 80), t.readByte a = t.cfg.fontTable[a]) ∧
    (∀ a, 80 ≤ a → a < 4096 → t.readByte a = 0) ∧ t.dirty = false ∧ t.fault = .none

/-- R167: an image of at most 3584 bytes is copied verbatim to 0x200 onward and nothing else changes; a
longer one is rejected. -/
def Obligations.LoadProgramCopies : Prop :=
  ∀ (s : State) (image : List Byte),
    (image.length ≤ 3584 →
      (∀ (k : Nat) (h : k < image.length), (s.loadProgram image).readByte (0x200 + k) = image[k]) ∧
      (∀ a, a < 0x200 ∨ (0x200 + image.length ≤ a ∧ a < 4096) →
        (s.loadProgram image).readByte a = s.readByte a) ∧
      KeepsRegsBut [] s (s.loadProgram image) ∧ (s.loadProgram image).i = s.i ∧
      (s.loadProgram image).pc = s.pc ∧ KeepsStack s (s.loadProgram image) ∧
      KeepsTimers s (s.loadProgram image) ∧ KeepsScreen s (s.loadProgram image) ∧
      KeepsRest s (s.loadProgram image)) ∧
    (3584 < image.length → s.loadProgram image = s)

/-- The host's other moves (R169): ClearDirty clears DIRTY alone, and a TimerTick is a move only under
`external_tick`, the spec's decision D1. That a load is one move together with the Reset before it, the
boot, is the model's choice (log 27). -/
def Obligations.HostMoves : Prop :=
  ∀ (s : State) (image : List Byte),
    ((s.hostMove .clearDirty).dirty = false ∧ (s.hostMove .clearDirty).fb = s.fb ∧
      KeepsRegsBut [] s (s.hostMove .clearDirty) ∧ (s.hostMove .clearDirty).pc = s.pc ∧
      (s.hostMove .clearDirty).i = s.i ∧ KeepsMemory s (s.hostMove .clearDirty) ∧
      KeepsStack s (s.hostMove .clearDirty) ∧ KeepsTimers s (s.hostMove .clearDirty) ∧
      KeepsRest s (s.hostMove .clearDirty)) ∧
    (s.cfg.timerMode = .perStep → s.hostMove .timerTick = s) ∧
    (s.cfg.timerMode = .externalTick → s.hostMove .timerTick = s.timerTick) ∧
    s.hostMove (.boot image) = (s.hostMove .reset).loadProgram image

/-! ## Invariant -/

/-- The state after Reset meets the invariant. The canonical form of memory is the model's choice (log 24);
that I stays below 4096 is the spec's decision D5 (log 11). -/
def Obligations.ResetMeetsInvariant : Prop := State.reset.Inv

/-- Every host move keeps the invariant. The canonical form of memory is the model's choice (log 24); that I
stays below 4096 is the spec's decision D5 (log 11). -/
def Obligations.HostMovesKeepInvariant : Prop :=
  ∀ (s : State) (m : HostMove), s.Inv → (s.hostMove m).Inv

/-- Every Step from every state that meets the invariant leads to one that meets it: memory in canonical
form (the model's choice, log 24), I below 4096 (the spec's decision D5, log 11), and every stack entry in
use an address a Step can fetch from (R66). -/
def Obligations.StepKeepsInvariant : Prop :=
  ∀ s t : State, s.Inv → step s = .next t → t.Inv

/-! ## Rules over all instructions -/

/-- Exactly seven instructions write VF as a flag, always 0 or 1; every instruction leaves every
register alone that is not its destination or that flag (R10, R11). -/
def Obligations.RegistersAndFlagWritten : Prop :=
  ∀ (i : Instr) (s t : State), exec i s = .next t →
    (∀ r, r ∉ destRegs i → ¬ (flagWriter i = true ∧ r = 15) → t.getV r = s.getV r) ∧
    (flagWriter i = true → t.getV 15 = 0 ∨ t.getV 15 = 1)

/-- Only FX33 and FX55 store, FX33 at three addresses and FX55 at X + 1; every other byte of memory
is as before (R30, R37). -/
def Obligations.MemoryWrittenOnlyByStores : Prop :=
  ∀ (i : Instr) (s t : State), exec i s = .next t → KeepsBytesBut (storedAddrs s i) s t

/-- I, the stack, the timers, the screen and the latch: which instructions may write each (R13, R15, R18,
R19, R155, R140). That FX65 writes I under `LS_INCREMENT_I` and only then, like FX55, is the spec's own
inference, its decision D6 (log 32); that 00E0 and DXYN always set DIRTY is its decision D25 (log 20). -/
def Obligations.OtherStateWrittenOnlyByItsWriters : Prop :=
  ∀ (i : Instr) (s t : State), exec i s = .next t →
    (match i with
      | .opANNN _ | .opFX1E _ | .opFX29 _ => True
      | .opFX55 _ | .opFX65 _ => s.cfg.lsIncrementI = false → t.i = s.i
      | _ => t.i = s.i) ∧
    (match i with
      | .op2NNN _ => True
      | .op00EE => t.stack = s.stack
      | _ => KeepsStack s t) ∧
    (match i with
      | .opFX15 _ => t.st = s.st
      | .opFX18 _ => t.dt = s.dt
      | _ => KeepsTimers s t) ∧
    (match i with
      | .op00E0 | .opDXYN _ _ _ => t.dirty = true
      | _ => KeepsScreen s t) ∧
    (match i with
      | .op2NNN _ | .op00EE => True
      | _ => t.fault = s.fault)

/-- A Step that does not execute CXNN does not depend on RND (R96; RND as a free input is the spec's
decision D15, log 4). -/
def Obligations.RndReadOnlyByRandom : Prop :=
  ∀ (s : State) (input : StepInput) (rnd : Byte),
    (∀ x nn, decodeWord (s.readWord s.pc.toNat) ≠ some (.opCXNN x nn)) →
    step (s.withInput input) = step (s.withInput { input with rnd := rnd })

/-- A Step that executes none of EX9E, EXA1 and FX0A does not depend on the keys (R20; keys as an
input of the Step are the spec's decision D17, log 26). -/
def Obligations.KeysReadOnlyByKeyInstructions : Prop :=
  ∀ (s : State) (input : StepInput) (key : Vector Bool 16),
    (∀ x, decodeWord (s.readWord s.pc.toNat) ≠ some (.opEX9E x) ∧
      decodeWord (s.readWord s.pc.toNat) ≠ some (.opEXA1 x) ∧
      decodeWord (s.readWord s.pc.toNat) ≠ some (.opFX0A x)) →
    step (s.withInput input) = step (s.withInput { input with key := key })
end

