-- ==== Sys2Proof/Laws/Decode.lean ====
section
/-! SUPPORT. The fields of a word, and the words of the encoder, as numbers. -/

namespace Sys2Proof

theorem fieldOP_toNat (w : Word) : (fieldOP w).toNat = w.toNat / 4096 % 16 := by
  simp [fieldOP, Nat.shiftRight_eq_div_pow]

theorem fieldX_val (w : Word) : (fieldX w).val = w.toNat / 256 % 16 := by
  simp [fieldX, Nat.shiftRight_eq_div_pow]

theorem fieldY_val (w : Word) : (fieldY w).val = w.toNat / 16 % 16 := by
  simp [fieldY, Nat.shiftRight_eq_div_pow]

theorem fieldN_val (w : Word) : (fieldN w).val = w.toNat % 16 := by
  simp [fieldN]

theorem fieldNN_toNat (w : Word) : (fieldNN w).toNat = w.toNat % 256 := by
  simp [fieldNN]

theorem fieldNNN_toNat (w : Word) : (fieldNNN w).toNat = w.toNat % 4096 := by
  simp [fieldNNN]

@[simp] theorem digit_toNat (r : Fin 16) : (digit r).toNat = r.val := rfl

theorem bigEndian_toNat (hi lo : Byte) : (bigEndian hi lo).toNat = hi.toNat * 256 + lo.toNat := by
  simp only [bigEndian, BitVec.toNat_append]
  rw [← Nat.shiftLeft_add_eq_or_of_lt lo.isLt, Nat.shiftLeft_eq]

/-- Fetching the two bytes of a word gives the word back. -/
theorem bigEndian_wordBytes (w : Word) : bigEndian (w.extractLsb 15 8) (w.extractLsb 7 0) = w := by
  apply BitVec.eq_of_toNat_eq
  rw [bigEndian_toNat]
  have := w.isLt
  simp [Nat.shiftRight_eq_div_pow]
  omega

/-- Decoding the two bytes of a word that is an instruction. -/
theorem decode_wordBytes_some {w : Word} {i : Instr} (h : decodeWord w = some i) (rest : List Byte) :
    decode (wordBytes w ++ rest) = .ok (i, rest) := by
  have e := bigEndian_wordBytes w
  simp only [wordBytes, List.cons_append, List.nil_append, decode]
  simp only [show bigEndian (w.extractLsb 15 8) (w.extractLsb 7 0) = w from e, h]

/-- Decoding the two bytes of an unknown word. -/
theorem decode_wordBytes_none {w : Word} (h : decodeWord w = none) (rest : List Byte) :
    decode (wordBytes w ++ rest) = .error (.unknownOpcode w) := by
  have e := bigEndian_wordBytes w
  simp only [wordBytes, List.cons_append, List.nil_append, decode]
  simp only [show bigEndian (w.extractLsb 15 8) (w.extractLsb 7 0) = w from e, h]

/-- Format NNN as a number (R46). -/
theorem toNat_formatNNN (op : BitVec 4) (nnn : Addr) :
    (op ++ nnn : Word).toNat = op.toNat * 4096 + nnn.toNat := by
  have h : (op ++ nnn : Word).toNat = op.toNat <<< 12 ||| nnn.toNat := BitVec.toNat_append ..
  rw [h, ← Nat.shiftLeft_add_eq_or_of_lt nnn.isLt, Nat.shiftLeft_eq]

/-- Formats XNN and XFF as a number (R46). -/
theorem toNat_formatXNN (op x : BitVec 4) (nn : Byte) :
    (op ++ x ++ nn : Word).toNat = op.toNat * 4096 + x.toNat * 256 + nn.toNat := by
  have h : (op ++ x ++ nn : Word).toNat = (op ++ x).toNat <<< 8 ||| nn.toNat := BitVec.toNat_append ..
  rw [h, BitVec.toNat_append, ← Nat.shiftLeft_add_eq_or_of_lt nn.isLt,
    ← Nat.shiftLeft_add_eq_or_of_lt x.isLt]
  simp only [Nat.shiftLeft_eq]
  omega

/-- Formats XYF and XYN as a number (R46). -/
theorem toNat_formatXYN (op x y n : BitVec 4) :
    (op ++ x ++ y ++ n : Word).toNat =
      op.toNat * 4096 + x.toNat * 256 + y.toNat * 16 + n.toNat := by
  have h : (op ++ x ++ y ++ n : Word).toNat = (op ++ x ++ y).toNat <<< 4 ||| n.toNat :=
    BitVec.toNat_append ..
  rw [h, BitVec.toNat_append, BitVec.toNat_append, ← Nat.shiftLeft_add_eq_or_of_lt n.isLt,
    ← Nat.shiftLeft_add_eq_or_of_lt y.isLt, ← Nat.shiftLeft_add_eq_or_of_lt x.isLt]
  simp only [Nat.shiftLeft_eq]
  omega

/-! ## The fields of an encoded word -/

/-- The fields of a word of format NNN. -/
theorem fields_formatNNN (op : BitVec 4) (nnn : Addr) :
    (fieldOP (op ++ nnn : Word)).toNat = op.toNat ∧ fieldNNN (op ++ nnn : Word) = nnn := by
  have := op.isLt
  have := nnn.isLt
  refine ⟨?_, BitVec.eq_of_toNat_eq ?_⟩
  · rw [fieldOP_toNat, toNat_formatNNN]; omega
  · rw [fieldNNN_toNat, toNat_formatNNN]; omega

/-- The fields of a word of format XNN or XFF. -/
theorem fields_formatXNN (op : BitVec 4) (x : Reg) (nn : Byte) :
    (fieldOP (op ++ digit x ++ nn : Word)).toNat = op.toNat ∧
      fieldX (op ++ digit x ++ nn : Word) = x ∧ fieldNN (op ++ digit x ++ nn : Word) = nn := by
  have := op.isLt
  have := nn.isLt
  have h := toNat_formatXNN op (digit x) nn
  rw [digit_toNat] at h
  refine ⟨?_, Fin.ext ?_, BitVec.eq_of_toNat_eq ?_⟩
  · rw [fieldOP_toNat, h]; omega
  · rw [fieldX_val, h]; omega
  · rw [fieldNN_toNat, h]; omega

/-- The fields of a word of format XYF or XYN. -/
theorem fields_formatXYN (op : BitVec 4) (x y n : Fin 16) :
    (fieldOP (op ++ digit x ++ digit y ++ digit n : Word)).toNat = op.toNat ∧
      fieldX (op ++ digit x ++ digit y ++ digit n : Word) = x ∧
      fieldY (op ++ digit x ++ digit y ++ digit n : Word) = y ∧
      fieldN (op ++ digit x ++ digit y ++ digit n : Word) = n := by
  have := op.isLt
  have h := toNat_formatXYN op (digit x) (digit y) (digit n)
  rw [digit_toNat, digit_toNat, digit_toNat] at h
  refine ⟨?_, Fin.ext ?_, Fin.ext ?_, Fin.ext ?_⟩
  · rw [fieldOP_toNat, h]; omega
  · rw [fieldX_val, h]; omega
  · rw [fieldY_val, h]; omega
  · rw [fieldN_val, h]; omega

/-! ## The masks of the opcode map -/

/-- A word is its four digits. -/
theorem word_eq_digits (w : Word) :
    w = (fieldOP w ++ digit (fieldX w) ++ digit (fieldY w) ++ digit (fieldN w) : Word) := by
  apply BitVec.eq_of_toNat_eq
  rw [toNat_formatXYN, fieldOP_toNat, digit_toNat, digit_toNat, digit_toNat, fieldX_val, fieldY_val,
    fieldN_val]
  have := w.isLt
  omega

/-- Masking a word of four digits masks each digit. -/
theorem and_digits (a b c d a' b' c' d' : BitVec 4) :
    (a ++ b ++ c ++ d : Word) &&& (a' ++ b' ++ c' ++ d' : Word) =
      ((a &&& a') ++ (b &&& b') ++ (c &&& c') ++ (d &&& d') : Word) := by
  show ((a ++ b ++ c ++ d) &&& (a' ++ b' ++ c' ++ d') : BitVec (4 + 4 + 4 + 4)) =
    ((a &&& a') ++ (b &&& b') ++ (c &&& c') ++ (d &&& d') : BitVec (4 + 4 + 4 + 4))
  rw [BitVec.and_append, BitVec.and_append, BitVec.and_append]

/-- What a mask of whole digits keeps of a word. -/
theorem and_mask (w : Word) (a b c d : BitVec 4) :
    w &&& (a ++ b ++ c ++ d : Word) =
      ((fieldOP w &&& a) ++ (digit (fieldX w) &&& b) ++ (digit (fieldY w) &&& c) ++
        (digit (fieldN w) &&& d) : Word) := by
  conv_lhs => rw [word_eq_digits w]
  exact and_digits ..

theorem and_F000_toNat (w : Word) : (w &&& 0xF000#16).toNat = (fieldOP w).toNat * 4096 := by
  rw [show (0xF000#16) = (BitVec.allOnes 4 ++ 0#4 ++ 0#4 ++ 0#4 : Word) from rfl, and_mask,
    toNat_formatXYN]
  simp only [BitVec.and_allOnes, BitVec.and_zero, BitVec.toNat_ofNat]
  omega

theorem and_F00F_toNat (w : Word) :
    (w &&& 0xF00F#16).toNat = (fieldOP w).toNat * 4096 + (fieldN w).val := by
  rw [show (0xF00F#16) = (BitVec.allOnes 4 ++ 0#4 ++ 0#4 ++ BitVec.allOnes 4 : Word) from rfl, and_mask,
    toNat_formatXYN]
  simp only [BitVec.and_allOnes, BitVec.and_zero, BitVec.toNat_ofNat, digit_toNat]
  omega

theorem and_F0FF_toNat (w : Word) :
    (w &&& 0xF0FF#16).toNat = (fieldOP w).toNat * 4096 + (fieldNN w).toNat := by
  rw [show (0xF0FF#16) = (BitVec.allOnes 4 ++ 0#4 ++ BitVec.allOnes 4 ++ BitVec.allOnes 4 : Word) from rfl,
    and_mask, toNat_formatXYN]
  simp only [BitVec.and_allOnes, BitVec.and_zero, BitVec.toNat_ofNat, digit_toNat, fieldY_val, fieldN_val,
    fieldNN_toNat]
  omega

/-! ## When a word matches a row, as digits -/

theorem matches_F000 (p : String) (w : Word) (v : Word) (h : v.toNat % 4096 = 0) :
    OpcodeRow.matchesWord ⟨p, 0xF000, v⟩ w = true ↔ (fieldOP w).toNat = v.toNat / 4096 := by
  show (w &&& 0xF000#16 == v) = true ↔ _
  rw [beq_iff_eq, ← BitVec.toNat_inj, and_F000_toNat]
  omega

theorem matches_F00F (p : String) (w : Word) (v : Word) (h : v.toNat / 16 % 256 = 0) :
    OpcodeRow.matchesWord ⟨p, 0xF00F, v⟩ w = true ↔
      (fieldOP w).toNat = v.toNat / 4096 ∧ (fieldN w).val = v.toNat % 16 := by
  show (w &&& 0xF00F#16 == v) = true ↔ _
  rw [beq_iff_eq, ← BitVec.toNat_inj, and_F00F_toNat]
  omega

theorem matches_F0FF (p : String) (w : Word) (v : Word) (h : v.toNat / 256 % 16 = 0) :
    OpcodeRow.matchesWord ⟨p, 0xF0FF, v⟩ w = true ↔
      (fieldOP w).toNat = v.toNat / 4096 ∧ (fieldNN w).toNat = v.toNat % 256 := by
  show (w &&& 0xF0FF#16 == v) = true ↔ _
  rw [beq_iff_eq, ← BitVec.toNat_inj, and_F0FF_toNat]
  have := (fieldNN w).isLt
  omega

theorem matches_FFFF (p : String) (w : Word) (v : Word) :
    OpcodeRow.matchesWord ⟨p, 0xFFFF, v⟩ w = true ↔ w = v := by
  show (w &&& 0xFFFF#16 == v) = true ↔ _
  rw [beq_iff_eq, show (0xFFFF#16) = BitVec.allOnes 16 from rfl, BitVec.and_allOnes]

end Sys2Proof
end

