-- ==== Sys2Proof/Laws/State.lean ====
section
/-! SUPPORT. What each update of the state does to each field, one lemma a field. -/

namespace Sys2Proof.Machine

variable (s : State)

/-! ### setV -/

@[simp] theorem State.setV_v (r : Reg) (x : Byte) : (s.setV r x).v = s.v.set r x := rfl
@[simp] theorem State.setV_i (r : Reg) (x : Byte) : (s.setV r x).i = s.i := rfl
@[simp] theorem State.setV_pc (r : Reg) (x : Byte) : (s.setV r x).pc = s.pc := rfl
@[simp] theorem State.setV_sp (r : Reg) (x : Byte) : (s.setV r x).sp = s.sp := rfl
@[simp] theorem State.setV_stack (r : Reg) (x : Byte) : (s.setV r x).stack = s.stack := rfl
@[simp] theorem State.setV_dt (r : Reg) (x : Byte) : (s.setV r x).dt = s.dt := rfl
@[simp] theorem State.setV_st (r : Reg) (x : Byte) : (s.setV r x).st = s.st := rfl
@[simp] theorem State.setV_fb (r : Reg) (x : Byte) : (s.setV r x).fb = s.fb := rfl
@[simp] theorem State.setV_dirty (r : Reg) (x : Byte) : (s.setV r x).dirty = s.dirty := rfl
@[simp] theorem State.setV_fault (r : Reg) (x : Byte) : (s.setV r x).fault = s.fault := rfl
@[simp] theorem State.setV_mem (r : Reg) (x : Byte) : (s.setV r x).mem = s.mem := rfl
@[simp] theorem State.setV_cfg (r : Reg) (x : Byte) : (s.setV r x).cfg = s.cfg := rfl
@[simp] theorem State.setV_inputs (r : Reg) (x : Byte) : (s.setV r x).inputs = s.inputs := rfl
@[simp] theorem State.setV_draws (r : Reg) (x : Byte) : (s.setV r x).draws = s.draws := rfl
@[simp] theorem State.setV_unknownOp (r : Reg) (x : Byte) : (s.setV r x).unknownOp = s.unknownOp := rfl
@[simp] theorem State.setV_tones (r : Reg) (x : Byte) : (s.setV r x).tones = s.tones := rfl
@[simp] theorem State.setV_readByte (r : Reg) (x : Byte) (b : Nat) : (s.setV r x).readByte b = s.readByte b := rfl
@[simp] theorem State.setV_input (r : Reg) (x : Byte) : (s.setV r x).input = s.input := rfl

/-! ### setI -/

@[simp] theorem State.setI_v (n : Nat) : (s.setI n).v = s.v := rfl
@[simp] theorem State.setI_i (n : Nat) : (s.setI n).i = BitVec.ofNat 16 (addr12 n) := rfl
@[simp] theorem State.setI_pc (n : Nat) : (s.setI n).pc = s.pc := rfl
@[simp] theorem State.setI_sp (n : Nat) : (s.setI n).sp = s.sp := rfl
@[simp] theorem State.setI_stack (n : Nat) : (s.setI n).stack = s.stack := rfl
@[simp] theorem State.setI_dt (n : Nat) : (s.setI n).dt = s.dt := rfl
@[simp] theorem State.setI_st (n : Nat) : (s.setI n).st = s.st := rfl
@[simp] theorem State.setI_fb (n : Nat) : (s.setI n).fb = s.fb := rfl
@[simp] theorem State.setI_dirty (n : Nat) : (s.setI n).dirty = s.dirty := rfl
@[simp] theorem State.setI_fault (n : Nat) : (s.setI n).fault = s.fault := rfl
@[simp] theorem State.setI_mem (n : Nat) : (s.setI n).mem = s.mem := rfl
@[simp] theorem State.setI_cfg (n : Nat) : (s.setI n).cfg = s.cfg := rfl
@[simp] theorem State.setI_inputs (n : Nat) : (s.setI n).inputs = s.inputs := rfl
@[simp] theorem State.setI_draws (n : Nat) : (s.setI n).draws = s.draws := rfl
@[simp] theorem State.setI_unknownOp (n : Nat) : (s.setI n).unknownOp = s.unknownOp := rfl
@[simp] theorem State.setI_tones (n : Nat) : (s.setI n).tones = s.tones := rfl
@[simp] theorem State.setI_readByte (n : Nat) (b : Nat) : (s.setI n).readByte b = s.readByte b := rfl
@[simp] theorem State.setI_getV (n : Nat) (q : Reg) : (s.setI n).getV q = s.getV q := rfl
@[simp] theorem State.setI_input (n : Nat) : (s.setI n).input = s.input := rfl

/-! ### setPc -/

@[simp] theorem State.setPc_v (w : Word) : (s.setPc w).v = s.v := rfl
@[simp] theorem State.setPc_i (w : Word) : (s.setPc w).i = s.i := rfl
@[simp] theorem State.setPc_pc (w : Word) : (s.setPc w).pc = w := rfl
@[simp] theorem State.setPc_sp (w : Word) : (s.setPc w).sp = s.sp := rfl
@[simp] theorem State.setPc_stack (w : Word) : (s.setPc w).stack = s.stack := rfl
@[simp] theorem State.setPc_dt (w : Word) : (s.setPc w).dt = s.dt := rfl
@[simp] theorem State.setPc_st (w : Word) : (s.setPc w).st = s.st := rfl
@[simp] theorem State.setPc_fb (w : Word) : (s.setPc w).fb = s.fb := rfl
@[simp] theorem State.setPc_dirty (w : Word) : (s.setPc w).dirty = s.dirty := rfl
@[simp] theorem State.setPc_fault (w : Word) : (s.setPc w).fault = s.fault := rfl
@[simp] theorem State.setPc_mem (w : Word) : (s.setPc w).mem = s.mem := rfl
@[simp] theorem State.setPc_cfg (w : Word) : (s.setPc w).cfg = s.cfg := rfl
@[simp] theorem State.setPc_inputs (w : Word) : (s.setPc w).inputs = s.inputs := rfl
@[simp] theorem State.setPc_draws (w : Word) : (s.setPc w).draws = s.draws := rfl
@[simp] theorem State.setPc_unknownOp (w : Word) : (s.setPc w).unknownOp = s.unknownOp := rfl
@[simp] theorem State.setPc_tones (w : Word) : (s.setPc w).tones = s.tones := rfl
@[simp] theorem State.setPc_readByte (w : Word) (b : Nat) : (s.setPc w).readByte b = s.readByte b := rfl
@[simp] theorem State.setPc_getV (w : Word) (q : Reg) : (s.setPc w).getV q = s.getV q := rfl
@[simp] theorem State.setPc_input (w : Word) : (s.setPc w).input = s.input := rfl

/-! ### setDT -/

@[simp] theorem State.setDT_v (x : Byte) : (s.setDT x).v = s.v := rfl
@[simp] theorem State.setDT_i (x : Byte) : (s.setDT x).i = s.i := rfl
@[simp] theorem State.setDT_pc (x : Byte) : (s.setDT x).pc = s.pc := rfl
@[simp] theorem State.setDT_sp (x : Byte) : (s.setDT x).sp = s.sp := rfl
@[simp] theorem State.setDT_stack (x : Byte) : (s.setDT x).stack = s.stack := rfl
@[simp] theorem State.setDT_dt (x : Byte) : (s.setDT x).dt = x := rfl
@[simp] theorem State.setDT_st (x : Byte) : (s.setDT x).st = s.st := rfl
@[simp] theorem State.setDT_fb (x : Byte) : (s.setDT x).fb = s.fb := rfl
@[simp] theorem State.setDT_dirty (x : Byte) : (s.setDT x).dirty = s.dirty := rfl
@[simp] theorem State.setDT_fault (x : Byte) : (s.setDT x).fault = s.fault := rfl
@[simp] theorem State.setDT_mem (x : Byte) : (s.setDT x).mem = s.mem := rfl
@[simp] theorem State.setDT_cfg (x : Byte) : (s.setDT x).cfg = s.cfg := rfl
@[simp] theorem State.setDT_inputs (x : Byte) : (s.setDT x).inputs = s.inputs := rfl
@[simp] theorem State.setDT_draws (x : Byte) : (s.setDT x).draws = s.draws := rfl
@[simp] theorem State.setDT_unknownOp (x : Byte) : (s.setDT x).unknownOp = s.unknownOp := rfl
@[simp] theorem State.setDT_tones (x : Byte) : (s.setDT x).tones = s.tones := rfl
@[simp] theorem State.setDT_readByte (x : Byte) (b : Nat) : (s.setDT x).readByte b = s.readByte b := rfl
@[simp] theorem State.setDT_getV (x : Byte) (q : Reg) : (s.setDT x).getV q = s.getV q := rfl
@[simp] theorem State.setDT_input (x : Byte) : (s.setDT x).input = s.input := rfl

/-! ### setST -/

@[simp] theorem State.setST_v (x : Byte) : (s.setST x).v = s.v := rfl
@[simp] theorem State.setST_i (x : Byte) : (s.setST x).i = s.i := rfl
@[simp] theorem State.setST_pc (x : Byte) : (s.setST x).pc = s.pc := rfl
@[simp] theorem State.setST_sp (x : Byte) : (s.setST x).sp = s.sp := rfl
@[simp] theorem State.setST_stack (x : Byte) : (s.setST x).stack = s.stack := rfl
@[simp] theorem State.setST_dt (x : Byte) : (s.setST x).dt = s.dt := rfl
@[simp] theorem State.setST_st (x : Byte) : (s.setST x).st = x := rfl
@[simp] theorem State.setST_fb (x : Byte) : (s.setST x).fb = s.fb := rfl
@[simp] theorem State.setST_dirty (x : Byte) : (s.setST x).dirty = s.dirty := rfl
@[simp] theorem State.setST_fault (x : Byte) : (s.setST x).fault = s.fault := rfl
@[simp] theorem State.setST_mem (x : Byte) : (s.setST x).mem = s.mem := rfl
@[simp] theorem State.setST_cfg (x : Byte) : (s.setST x).cfg = s.cfg := rfl
@[simp] theorem State.setST_inputs (x : Byte) : (s.setST x).inputs = s.inputs := rfl
@[simp] theorem State.setST_draws (x : Byte) : (s.setST x).draws = s.draws := rfl
@[simp] theorem State.setST_unknownOp (x : Byte) : (s.setST x).unknownOp = s.unknownOp := rfl
@[simp] theorem State.setST_tones (x : Byte) : (s.setST x).tones = s.tones := rfl
@[simp] theorem State.setST_readByte (x : Byte) (b : Nat) : (s.setST x).readByte b = s.readByte b := rfl
@[simp] theorem State.setST_getV (x : Byte) (q : Reg) : (s.setST x).getV q = s.getV q := rfl
@[simp] theorem State.setST_input (x : Byte) : (s.setST x).input = s.input := rfl

/-! ### raise -/

@[simp] theorem State.raise_v (k : FaultCode) : (s.raise k).v = s.v := rfl
@[simp] theorem State.raise_i (k : FaultCode) : (s.raise k).i = s.i := rfl
@[simp] theorem State.raise_pc (k : FaultCode) : (s.raise k).pc = s.pc := rfl
@[simp] theorem State.raise_sp (k : FaultCode) : (s.raise k).sp = s.sp := rfl
@[simp] theorem State.raise_stack (k : FaultCode) : (s.raise k).stack = s.stack := rfl
@[simp] theorem State.raise_dt (k : FaultCode) : (s.raise k).dt = s.dt := rfl
@[simp] theorem State.raise_st (k : FaultCode) : (s.raise k).st = s.st := rfl
@[simp] theorem State.raise_fb (k : FaultCode) : (s.raise k).fb = s.fb := rfl
@[simp] theorem State.raise_dirty (k : FaultCode) : (s.raise k).dirty = s.dirty := rfl
@[simp] theorem State.raise_fault (k : FaultCode) : (s.raise k).fault = k := rfl
@[simp] theorem State.raise_mem (k : FaultCode) : (s.raise k).mem = s.mem := rfl
@[simp] theorem State.raise_cfg (k : FaultCode) : (s.raise k).cfg = s.cfg := rfl
@[simp] theorem State.raise_inputs (k : FaultCode) : (s.raise k).inputs = s.inputs := rfl
@[simp] theorem State.raise_draws (k : FaultCode) : (s.raise k).draws = s.draws := rfl
@[simp] theorem State.raise_unknownOp (k : FaultCode) : (s.raise k).unknownOp = s.unknownOp := rfl
@[simp] theorem State.raise_tones (k : FaultCode) : (s.raise k).tones = s.tones := rfl
@[simp] theorem State.raise_readByte (k : FaultCode) (b : Nat) : (s.raise k).readByte b = s.readByte b := rfl
@[simp] theorem State.raise_getV (k : FaultCode) (q : Reg) : (s.raise k).getV q = s.getV q := rfl
@[simp] theorem State.raise_input (k : FaultCode) : (s.raise k).input = s.input := rfl

/-! ### writeByte -/

@[simp] theorem State.writeByte_v (a : Nat) (x : Byte) : (s.writeByte a x).v = s.v := rfl
@[simp] theorem State.writeByte_i (a : Nat) (x : Byte) : (s.writeByte a x).i = s.i := rfl
@[simp] theorem State.writeByte_pc (a : Nat) (x : Byte) : (s.writeByte a x).pc = s.pc := rfl
@[simp] theorem State.writeByte_sp (a : Nat) (x : Byte) : (s.writeByte a x).sp = s.sp := rfl
@[simp] theorem State.writeByte_stack (a : Nat) (x : Byte) : (s.writeByte a x).stack = s.stack := rfl
@[simp] theorem State.writeByte_dt (a : Nat) (x : Byte) : (s.writeByte a x).dt = s.dt := rfl
@[simp] theorem State.writeByte_st (a : Nat) (x : Byte) : (s.writeByte a x).st = s.st := rfl
@[simp] theorem State.writeByte_fb (a : Nat) (x : Byte) : (s.writeByte a x).fb = s.fb := rfl
@[simp] theorem State.writeByte_dirty (a : Nat) (x : Byte) : (s.writeByte a x).dirty = s.dirty := rfl
@[simp] theorem State.writeByte_fault (a : Nat) (x : Byte) : (s.writeByte a x).fault = s.fault := rfl
@[simp] theorem State.writeByte_mem (a : Nat) (x : Byte) : (s.writeByte a x).mem = Memory.write s.cfg.fontTable s.mem (addr12 a) x := rfl
@[simp] theorem State.writeByte_cfg (a : Nat) (x : Byte) : (s.writeByte a x).cfg = s.cfg := rfl
@[simp] theorem State.writeByte_inputs (a : Nat) (x : Byte) : (s.writeByte a x).inputs = s.inputs := rfl
@[simp] theorem State.writeByte_draws (a : Nat) (x : Byte) : (s.writeByte a x).draws = s.draws := rfl
@[simp] theorem State.writeByte_unknownOp (a : Nat) (x : Byte) : (s.writeByte a x).unknownOp = s.unknownOp := rfl
@[simp] theorem State.writeByte_tones (a : Nat) (x : Byte) : (s.writeByte a x).tones = s.tones := rfl
@[simp] theorem State.writeByte_getV (a : Nat) (x : Byte) (q : Reg) : (s.writeByte a x).getV q = s.getV q := rfl
@[simp] theorem State.writeByte_input (a : Nat) (x : Byte) : (s.writeByte a x).input = s.input := rfl

/-! ### show -/

@[simp] theorem State.show_v (fb : Framebuffer) : (s.show fb).v = s.v := rfl
@[simp] theorem State.show_i (fb : Framebuffer) : (s.show fb).i = s.i := rfl
@[simp] theorem State.show_pc (fb : Framebuffer) : (s.show fb).pc = s.pc := rfl
@[simp] theorem State.show_sp (fb : Framebuffer) : (s.show fb).sp = s.sp := rfl
@[simp] theorem State.show_stack (fb : Framebuffer) : (s.show fb).stack = s.stack := rfl
@[simp] theorem State.show_dt (fb : Framebuffer) : (s.show fb).dt = s.dt := rfl
@[simp] theorem State.show_st (fb : Framebuffer) : (s.show fb).st = s.st := rfl
@[simp] theorem State.show_fb (fb : Framebuffer) : (s.show fb).fb = fb := rfl
@[simp] theorem State.show_dirty (fb : Framebuffer) : (s.show fb).dirty = true := rfl
@[simp] theorem State.show_fault (fb : Framebuffer) : (s.show fb).fault = s.fault := rfl
@[simp] theorem State.show_mem (fb : Framebuffer) : (s.show fb).mem = s.mem := rfl
@[simp] theorem State.show_cfg (fb : Framebuffer) : (s.show fb).cfg = s.cfg := rfl
@[simp] theorem State.show_inputs (fb : Framebuffer) : (s.show fb).inputs = s.inputs := rfl
@[simp] theorem State.show_draws (fb : Framebuffer) : (s.show fb).draws = s.draws := rfl
@[simp] theorem State.show_unknownOp (fb : Framebuffer) : (s.show fb).unknownOp = s.unknownOp := rfl
@[simp] theorem State.show_tones (fb : Framebuffer) : (s.show fb).tones = s.tones := rfl
@[simp] theorem State.show_readByte (fb : Framebuffer) (b : Nat) : (s.show fb).readByte b = s.readByte b := rfl
@[simp] theorem State.show_getV (fb : Framebuffer) (q : Reg) : (s.show fb).getV q = s.getV q := rfl
@[simp] theorem State.show_input (fb : Framebuffer) : (s.show fb).input = s.input := rfl

/-! ### clearOutputs -/

@[simp] theorem State.clearOutputs_v : (s.clearOutputs).v = s.v := rfl
@[simp] theorem State.clearOutputs_i : (s.clearOutputs).i = s.i := rfl
@[simp] theorem State.clearOutputs_pc : (s.clearOutputs).pc = s.pc := rfl
@[simp] theorem State.clearOutputs_sp : (s.clearOutputs).sp = s.sp := rfl
@[simp] theorem State.clearOutputs_stack : (s.clearOutputs).stack = s.stack := rfl
@[simp] theorem State.clearOutputs_dt : (s.clearOutputs).dt = s.dt := rfl
@[simp] theorem State.clearOutputs_st : (s.clearOutputs).st = s.st := rfl
@[simp] theorem State.clearOutputs_fb : (s.clearOutputs).fb = s.fb := rfl
@[simp] theorem State.clearOutputs_dirty : (s.clearOutputs).dirty = s.dirty := rfl
@[simp] theorem State.clearOutputs_fault : (s.clearOutputs).fault = s.fault := rfl
@[simp] theorem State.clearOutputs_mem : (s.clearOutputs).mem = s.mem := rfl
@[simp] theorem State.clearOutputs_cfg : (s.clearOutputs).cfg = s.cfg := rfl
@[simp] theorem State.clearOutputs_inputs : (s.clearOutputs).inputs = s.inputs := rfl
@[simp] theorem State.clearOutputs_draws : (s.clearOutputs).draws = s.draws := rfl
@[simp] theorem State.clearOutputs_unknownOp : (s.clearOutputs).unknownOp = Option.none := rfl
@[simp] theorem State.clearOutputs_tones : (s.clearOutputs).tones = [] := rfl
@[simp] theorem State.clearOutputs_readByte (b : Nat) : (s.clearOutputs).readByte b = s.readByte b := rfl
@[simp] theorem State.clearOutputs_getV (q : Reg) : (s.clearOutputs).getV q = s.getV q := rfl
@[simp] theorem State.clearOutputs_input : (s.clearOutputs).input = s.input := rfl

/-! ### takeInput -/

@[simp] theorem State.takeInput_v : (s.takeInput).v = s.v := rfl
@[simp] theorem State.takeInput_i : (s.takeInput).i = s.i := rfl
@[simp] theorem State.takeInput_pc : (s.takeInput).pc = s.pc := rfl
@[simp] theorem State.takeInput_sp : (s.takeInput).sp = s.sp := rfl
@[simp] theorem State.takeInput_stack : (s.takeInput).stack = s.stack := rfl
@[simp] theorem State.takeInput_dt : (s.takeInput).dt = s.dt := rfl
@[simp] theorem State.takeInput_st : (s.takeInput).st = s.st := rfl
@[simp] theorem State.takeInput_fb : (s.takeInput).fb = s.fb := rfl
@[simp] theorem State.takeInput_dirty : (s.takeInput).dirty = s.dirty := rfl
@[simp] theorem State.takeInput_fault : (s.takeInput).fault = s.fault := rfl
@[simp] theorem State.takeInput_mem : (s.takeInput).mem = s.mem := rfl
@[simp] theorem State.takeInput_cfg : (s.takeInput).cfg = s.cfg := rfl
@[simp] theorem State.takeInput_inputs : (s.takeInput).inputs = s.inputs.tail := rfl
@[simp] theorem State.takeInput_draws : (s.takeInput).draws = s.draws + 1 := rfl
@[simp] theorem State.takeInput_unknownOp : (s.takeInput).unknownOp = s.unknownOp := rfl
@[simp] theorem State.takeInput_tones : (s.takeInput).tones = s.tones := rfl
@[simp] theorem State.takeInput_readByte (b : Nat) : (s.takeInput).readByte b = s.readByte b := rfl
@[simp] theorem State.takeInput_getV (q : Reg) : (s.takeInput).getV q = s.getV q := rfl

/-! ### clearDirty -/

@[simp] theorem State.clearDirty_v : (s.clearDirty).v = s.v := rfl
@[simp] theorem State.clearDirty_i : (s.clearDirty).i = s.i := rfl
@[simp] theorem State.clearDirty_pc : (s.clearDirty).pc = s.pc := rfl
@[simp] theorem State.clearDirty_sp : (s.clearDirty).sp = s.sp := rfl
@[simp] theorem State.clearDirty_stack : (s.clearDirty).stack = s.stack := rfl
@[simp] theorem State.clearDirty_dt : (s.clearDirty).dt = s.dt := rfl
@[simp] theorem State.clearDirty_st : (s.clearDirty).st = s.st := rfl
@[simp] theorem State.clearDirty_fb : (s.clearDirty).fb = s.fb := rfl
@[simp] theorem State.clearDirty_dirty : (s.clearDirty).dirty = false := rfl
@[simp] theorem State.clearDirty_fault : (s.clearDirty).fault = s.fault := rfl
@[simp] theorem State.clearDirty_mem : (s.clearDirty).mem = s.mem := rfl
@[simp] theorem State.clearDirty_cfg : (s.clearDirty).cfg = s.cfg := rfl
@[simp] theorem State.clearDirty_inputs : (s.clearDirty).inputs = s.inputs := rfl
@[simp] theorem State.clearDirty_draws : (s.clearDirty).draws = s.draws := rfl
@[simp] theorem State.clearDirty_unknownOp : (s.clearDirty).unknownOp = s.unknownOp := rfl
@[simp] theorem State.clearDirty_tones : (s.clearDirty).tones = s.tones := rfl
@[simp] theorem State.clearDirty_readByte (b : Nat) : (s.clearDirty).readByte b = s.readByte b := rfl
@[simp] theorem State.clearDirty_getV (q : Reg) : (s.clearDirty).getV q = s.getV q := rfl
@[simp] theorem State.clearDirty_input : (s.clearDirty).input = s.input := rfl

/-! ### emitTone -/

@[simp] theorem State.emitTone_v (b : Bool) : (s.emitTone b).v = s.v := rfl
@[simp] theorem State.emitTone_i (b : Bool) : (s.emitTone b).i = s.i := rfl
@[simp] theorem State.emitTone_pc (b : Bool) : (s.emitTone b).pc = s.pc := rfl
@[simp] theorem State.emitTone_sp (b : Bool) : (s.emitTone b).sp = s.sp := rfl
@[simp] theorem State.emitTone_stack (b : Bool) : (s.emitTone b).stack = s.stack := rfl
@[simp] theorem State.emitTone_dt (b : Bool) : (s.emitTone b).dt = s.dt := rfl
@[simp] theorem State.emitTone_st (b : Bool) : (s.emitTone b).st = s.st := rfl
@[simp] theorem State.emitTone_fb (b : Bool) : (s.emitTone b).fb = s.fb := rfl
@[simp] theorem State.emitTone_dirty (b : Bool) : (s.emitTone b).dirty = s.dirty := rfl
@[simp] theorem State.emitTone_fault (b : Bool) : (s.emitTone b).fault = s.fault := rfl
@[simp] theorem State.emitTone_mem (b : Bool) : (s.emitTone b).mem = s.mem := rfl
@[simp] theorem State.emitTone_cfg (b : Bool) : (s.emitTone b).cfg = s.cfg := rfl
@[simp] theorem State.emitTone_inputs (b : Bool) : (s.emitTone b).inputs = s.inputs := rfl
@[simp] theorem State.emitTone_draws (b : Bool) : (s.emitTone b).draws = s.draws := rfl
@[simp] theorem State.emitTone_unknownOp (b : Bool) : (s.emitTone b).unknownOp = s.unknownOp := rfl
@[simp] theorem State.emitTone_tones (b : Bool) : (s.emitTone b).tones = s.tones ++ [b] := rfl
@[simp] theorem State.emitTone_readByte (b : Bool) (a : Nat) : (s.emitTone b).readByte a = s.readByte a := rfl
@[simp] theorem State.emitTone_getV (b : Bool) (q : Reg) : (s.emitTone b).getV q = s.getV q := rfl
@[simp] theorem State.emitTone_input (b : Bool) : (s.emitTone b).input = s.input := rfl

/-! ### The tone request -/

/-- An output replaces the one before it: `tone_req` is that of the latest TimerTick (R154). -/
@[simp] theorem State.emitTone_toneReq (b : Bool) : (s.emitTone b).toneReq = b := by
  simp [State.toneReq, State.emitTone]

@[simp] theorem State.clearOutputs_toneReq : s.clearOutputs.toneReq = false := rfl

/-- Equal outputs read the same. -/
theorem State.toneReq_congr {s t : State} (h : t.tones = s.tones) : t.toneReq = s.toneReq := by
  rw [State.toneReq, h, State.toneReq]

/-! ### Registers -/

/-- A write to a general register changes that register and no other. -/
@[simp] theorem State.setV_getV (r q : Reg) (x : Byte) :
    (s.setV r x).getV q = if q = r then x else s.getV q := by
  by_cases h : q = r
  · simp [State.getV, State.setV, h]
  · have : r.val ≠ q.val := fun e => h (Fin.ext e.symm)
    simp [State.getV, State.setV, h, Vector.getElem_set_ne _ _ this]

@[simp] theorem State.setVF_eq (x : Byte) : s.setVF x = s.setV 15 x := rfl
@[simp] theorem State.advance_eq : s.advance = s.setPc (s.pc + 2) := rfl
@[simp] theorem State.skipIf_eq (c : Bool) :
    s.skipIf c = s.setPc (if c then s.pc + 4 else s.pc + 2) := rfl
@[simp] theorem State.result_eq (x : Reg) (r : Byte) :
    s.result x r = (s.setV x r).setPc (s.pc + 2) := rfl
@[simp] theorem State.resultFlag_eq (x : Reg) (r f : Byte) :
    s.resultFlag x r f = ((s.setV x r).setV 15 f).setPc (s.pc + 2) := rfl

/-- Two states that hold the same general registers read the same. -/
theorem State.v_ext {s t : State} (h : ∀ q, t.getV q = s.getV q) : t.v = s.v := by
  apply Vector.ext
  intro k hk
  exact h ⟨k, hk⟩

end Sys2Proof.Machine
end

