-- ==== Sys2Proof/Laws/Memory.lean ====
section
/-! SUPPORT. Memory: read after write, and the canonical form is kept by every operation. -/

namespace Sys2Proof.Machine

/-! ## The list -/

theorem Memory.lookup_insert (m : Memory) (a b : Nat) (x : Byte) :
    Memory.lookup (Memory.insert m a x) b = if b = a then some x else Memory.lookup m b := by
  induction m with
  | nil => simp [Memory.insert, Memory.lookup]
  | cons c m ih =>
    obtain ⟨k, w⟩ := c
    simp only [Memory.insert]
    split
    · simp only [Memory.lookup]
    · split
      · subst_vars
        by_cases h : b = k <;> simp [Memory.lookup, h]
      · simp only [Memory.lookup, ih]
        by_cases h : b = k
        · subst h; simp [show ¬ b = a by omega]
        · simp [h]

theorem Memory.lookup_erase (m : Memory) (a b : Nat) :
    Memory.lookup (Memory.erase m a) b = if b = a then none else Memory.lookup m b := by
  induction m with
  | nil => simp [Memory.erase, Memory.lookup]
  | cons c m ih =>
    obtain ⟨k, w⟩ := c
    simp only [Memory.erase, List.filter_cons] at ih ⊢
    by_cases h : k = a
    · subst h
      simp only [bne_self_eq_false, Bool.false_eq_true, if_false, ih, Memory.lookup]
      split <;> rfl
    · simp only [bne_iff_ne, ne_eq, h, not_false_eq_true, if_true, Memory.lookup, ih]
      by_cases h2 : b = k
      · subst h2; simp [h]
      · simp [h2]

/-- Reading after a write, at the same address and at any other. -/
theorem Memory.read_write (font : FontTable) (m : Memory) (a b : Nat) (x : Byte) :
    Memory.read font (Memory.write font m a x) b = if b = a then x else Memory.read font m b := by
  unfold Memory.read Memory.write
  split
  · rw [Memory.lookup_erase]
    by_cases h : b = a
    · subst h; simp [*]
    · simp [h]
  · rw [Memory.lookup_insert]
    by_cases h : b = a <;> simp [h]

/-! ## The canonical form -/

theorem Memory.wf_iff (font : FontTable) (m : Memory) :
    Memory.wf font m = true ↔ (m.Pairwise fun c d => c.1 < d.1) ∧
      ∀ c ∈ m, c.1 < 4096 ∧ c.2 ≠ Memory.unlisted font c.1 := by
  simp [Memory.wf, List.all_eq_true]

theorem Memory.wf_nil (font : FontTable) : Memory.wf font [] = true := by simp [Memory.wf_iff]

theorem Memory.mem_insert {m : Memory} {a : Nat} {x : Byte} {c : Host.Cell}
    (h : c ∈ Memory.insert m a x) : c = (a, x) ∨ c ∈ m := by
  induction m with
  | nil => simpa [Memory.insert] using h
  | cons d m ih =>
    obtain ⟨k, w⟩ := d
    simp only [Memory.insert] at h
    split at h
    · simpa using h
    · split at h
      · rcases List.mem_cons.1 h with h | h
        · exact .inl h
        · exact .inr (List.mem_cons_of_mem _ h)
      · rcases List.mem_cons.1 h with h | h
        · exact .inr (h ▸ List.mem_cons_self)
        · exact (ih h).imp id (List.mem_cons_of_mem _)

theorem Memory.pairwise_insert {m : Memory} (a : Nat) (x : Byte)
    (h : m.Pairwise fun c d => c.1 < d.1) : (Memory.insert m a x).Pairwise fun c d => c.1 < d.1 := by
  induction m with
  | nil => simp [Memory.insert]
  | cons d m ih =>
    obtain ⟨k, w⟩ := d
    rw [List.pairwise_cons] at h
    simp only [Memory.insert]
    split
    · refine List.pairwise_cons.2 ⟨fun c hc => ?_, List.pairwise_cons.2 h⟩
      rcases List.mem_cons.1 hc with hc | hc
      · subst hc; assumption
      · have := h.1 c hc; simp only at this ⊢; omega
    · split
      · subst_vars
        exact List.pairwise_cons.2 h
      · refine List.pairwise_cons.2 ⟨fun c hc => ?_, ih h.2⟩
        rcases Memory.mem_insert hc with hc | hc
        · subst hc; simp only; omega
        · exact h.1 c hc

/-- A write keeps the canonical form. -/
theorem Memory.wf_write {font : FontTable} {m : Memory} {a : Nat} (x : Byte)
    (h : Memory.wf font m = true) (ha : a < 4096) : Memory.wf font (Memory.write font m a x) = true := by
  rw [Memory.wf_iff] at h ⊢
  unfold Memory.write
  split
  · exact ⟨h.1.filter _, fun c hc => h.2 c (List.mem_filter.1 hc).1⟩
  · refine ⟨Memory.pairwise_insert a x h.1, fun c hc => ?_⟩
    rcases Memory.mem_insert hc with hc | hc
    · subst hc; exact ⟨ha, by assumption⟩
    · exact h.2 c hc

/-! ## The state's memory -/

theorem addr12_lt (n : Nat) : addr12 n < 4096 := Nat.mod_lt _ (by decide)

@[simp] theorem addr12_addr12 (n : Nat) : addr12 (addr12 n) = addr12 n := Nat.mod_mod _ _

theorem State.readByte_congr (s : State) {a b : Nat} (h : addr12 a = addr12 b) :
    s.readByte a = s.readByte b := by simp only [State.readByte, h]

@[simp] theorem State.readByte_addr12 (s : State) (a : Nat) : s.readByte (addr12 a) = s.readByte a :=
  s.readByte_congr (by simp)

/-- MemWrite then MemRead (R34). -/
theorem State.readByte_writeByte (s : State) (a b : Nat) (x : Byte) :
    (s.writeByte a x).readByte b = if addr12 b = addr12 a then x else s.readByte b :=
  Memory.read_write _ _ _ _ _

/-- The state's memory is in its canonical form. -/
abbrev State.memWf (s : State) : Prop := Memory.wf s.cfg.fontTable s.mem = true

theorem State.memWf_writeByte {s : State} (a : Nat) (x : Byte) (h : s.memWf) : (s.writeByte a x).memWf :=
  Memory.wf_write x h (addr12_lt a)

/-- A run of byte stores changes memory only: what holds of every MemWrite holds of the run. -/
theorem State.writeBytes_induct {P : State → Prop} (step : ∀ s a x, P s → P (s.writeByte a x))
    (s : State) (a : Nat) (xs : List Byte) (h : P s) : P (s.writeBytes a xs) := by
  induction xs generalizing s a with
  | nil => exact h
  | cons x xs ih => exact ih _ _ (step s a x h)

/-- Stores touch memory alone. -/
structure State.SameButMem (s t : State) : Prop where
  v : t.v = s.v
  i : t.i = s.i
  pc : t.pc = s.pc
  sp : t.sp = s.sp
  stack : t.stack = s.stack
  dt : t.dt = s.dt
  st : t.st = s.st
  fb : t.fb = s.fb
  dirty : t.dirty = s.dirty
  fault : t.fault = s.fault
  cfg : t.cfg = s.cfg
  inputs : t.inputs = s.inputs
  draws : t.draws = s.draws
  unknownOp : t.unknownOp = s.unknownOp
  tones : t.tones = s.tones

theorem State.SameButMem.rfl (s : State) : s.SameButMem s := by constructor <;> exact Eq.refl _

theorem State.SameButMem.writeByte {s t : State} (h : s.SameButMem t) (a : Nat) (x : Byte) :
    s.SameButMem (t.writeByte a x) := by
  obtain ⟨h1, h2, h3, h4, h5, h6, h7, h8, h9, h10, h11, h12, h13, h14, h15⟩ := h
  constructor <;> assumption

theorem State.sameButMem_writeBytes (s : State) (a : Nat) (xs : List Byte) :
    s.SameButMem (s.writeBytes a xs) :=
  State.writeBytes_induct (P := s.SameButMem) (fun _ a x h => h.writeByte a x) s a xs (.rfl s)

theorem State.memWf_writeBytes {s : State} (a : Nat) (xs : List Byte) (h : s.memWf) :
    (s.writeBytes a xs).memWf :=
  State.writeBytes_induct (fun _ a x h => State.memWf_writeByte a x h) s a xs h

/-- A byte outside the stored addresses reads as before. -/
theorem State.readByte_writeBytes_outside (s : State) (a b : Nat) (xs : List Byte)
    (h : ∀ k < xs.length, addr12 b ≠ addr12 (a + k)) : (s.writeBytes a xs).readByte b = s.readByte b := by
  induction xs generalizing s a with
  | nil => rfl
  | cons x xs ih =>
    simp only [State.writeBytes]
    rw [ih _ _ fun k hk => by
      have := h (k + 1) (by simpa using hk)
      rwa [show a + (k + 1) = a + 1 + k by omega] at this]
    rw [State.readByte_writeByte, if_neg (by simpa using h 0 (by simp))]

/-- The k-th stored byte is read back at its address, for at most 4096 bytes. -/
theorem State.readByte_writeBytes_inside (s : State) (a : Nat) (xs : List Byte) (hl : xs.length ≤ 4096)
    (k : Nat) (h : k < xs.length) : (s.writeBytes a xs).readByte (a + k) = xs[k] := by
  induction xs generalizing s a k with
  | nil => simp at h
  | cons x xs ih =>
    simp only [State.writeBytes]
    simp only [List.length_cons] at hl h
    cases k with
    | zero =>
      rw [State.readByte_writeBytes_outside _ _ _ _ fun j hj => by simp only [addr12]; omega]
      simp [State.readByte_writeByte]
    | succ k =>
      rw [show a + (k + 1) = a + 1 + k by omega, ih _ _ (by omega) _ (by omega)]
      rfl

end Sys2Proof.Machine
end

