-- ==== Sys2Proof/Laws/Draw.lean ====
section
/-! SUPPORT. What a sprite draw does to each cell: the loop of R117 as a set of pixels. -/

namespace Sys2Proof.Machine

theorem Framebuffer.cell_toggle (fb : Framebuffer) (y cy : Fin 32) (x cx : Fin 64) :
    (fb.toggle y x).cell cy cx = (fb.cell cy cx ^^ decide ((cy, cx) = (y, x))) := by
  unfold Framebuffer.toggle Framebuffer.cell
  by_cases hy : cy = y
  · subst hy
    by_cases hx : cx = x
    · subst hx
      simp
    · have hx' : cx.val ≠ x.val := fun e => hx (Fin.ext e)
      simp [hx, hx']
  · have : y.val ≠ cy.val := fun e => hy (Fin.ext e.symm)
    simp [hy, Vector.getElem_set_ne _ _ this]

/-- The cells under the set bits of one sprite row. -/
def rowPixels (b : Byte) (x0 : Nat) (y : Fin 32) : List (Fin 32 × Fin 64) :=
  ((List.range 8).filter fun col => spriteBit b col).map fun col => (y, Fin.ofNat 64 (x0 + col))

/-- The cells under the set bits of a sprite. -/
def spritePixels : List Byte → Nat → Nat → List (Fin 32 × Fin 64)
  | [], _, _ => []
  | b :: bs, x0, y0 => rowPixels b x0 (Fin.ofNat 32 y0) ++ spritePixels bs x0 (y0 + 1)

/-- Draw a list of cells. -/
def drawPixels (ps : List (Fin 32 × Fin 64)) (d : Drawing) : Drawing :=
  ps.foldl (fun d p => drawPixel d p.1 p.2) d

theorem drawRow_eq (b : Byte) (x0 : Nat) (y : Fin 32) (d : Drawing) :
    drawRow b x0 y d = drawPixels (rowPixels b x0 y) d := by
  simp only [drawRow, drawPixels, rowPixels, List.foldl_map, List.foldl_filter]

theorem drawRows_eq (bs : List Byte) (x0 y0 : Nat) (d : Drawing) :
    drawRows bs x0 y0 d = drawPixels (spritePixels bs x0 y0) d := by
  induction bs generalizing y0 d with
  | nil => rfl
  | cons b bs ih =>
    simp only [drawRows, ih, drawRow_eq, spritePixels, drawPixels, List.foldl_append]

/-- Drawing distinct cells toggles each of them once, and collides if one of them was lit. -/
theorem drawPixels_spec (ps : List (Fin 32 × Fin 64)) (hd : ps.Nodup) (d : Drawing) :
    (∀ cy cx, (drawPixels ps d).1.cell cy cx = (d.1.cell cy cx ^^ decide ((cy, cx) ∈ ps))) ∧
    (drawPixels ps d).2 = (d.2 || ps.any fun p => d.1.cell p.1 p.2) := by
  induction ps generalizing d with
  | nil => simp [drawPixels]
  | cons p ps ih =>
    obtain ⟨hp, hps⟩ := List.nodup_cons.1 hd
    obtain ⟨h1, h2⟩ := ih hps (drawPixel d p.1 p.2)
    have h3 : ∀ q ∈ ps, (drawPixel d p.1 p.2).1.cell q.1 q.2 = d.1.cell q.1 q.2 := fun q hq => by
      have : q ≠ p := fun e => hp (e ▸ hq)
      simp [drawPixel, Framebuffer.cell_toggle, this]
    refine ⟨fun cy cx => ?_, ?_⟩
    · have : drawPixels (p :: ps) d = drawPixels ps (drawPixel d p.1 p.2) := rfl
      rw [this, h1]
      simp only [drawPixel, Framebuffer.cell_toggle, List.mem_cons]
      by_cases hq : (cy, cx) = p
      · subst hq; simp [hp]
      · simp [hq]
    · have : drawPixels (p :: ps) d = drawPixels ps (drawPixel d p.1 p.2) := rfl
      rw [this, h2]
      have : (ps.any fun q => (drawPixel d p.1 p.2).1.cell q.1 q.2) =
          ps.any fun q => d.1.cell q.1 q.2 := by
        rw [Bool.eq_iff_iff, List.any_eq_true, List.any_eq_true]
        exact exists_congr fun q => and_congr_right fun hq => by rw [h3 q hq]
      rw [this]
      simp [drawPixel, Bool.or_assoc]

theorem mem_rowPixels (b : Byte) (x0 : Nat) (y cy : Fin 32) (cx : Fin 64) :
    (cy, cx) ∈ rowPixels b x0 y ↔
      ∃ col < 8, cy = y ∧ cx = Fin.ofNat 64 (x0 + col) ∧ spriteBit b col = true := by
  simp only [rowPixels, List.mem_map, List.mem_filter, List.mem_range, Prod.mk.injEq]
  constructor
  · rintro ⟨col, ⟨h1, h2⟩, h3, h4⟩
    exact ⟨col, h1, h3.symm, h4.symm, h2⟩
  · rintro ⟨col, h1, h2, h3, h4⟩
    exact ⟨col, ⟨h1, h4⟩, h2.symm, h3.symm⟩

theorem mem_spritePixels (bs : List Byte) (x0 y0 : Nat) (cy : Fin 32) (cx : Fin 64) :
    (cy, cx) ∈ spritePixels bs x0 y0 ↔
      ∃ (r : Nat) (h : r < bs.length), ∃ col < 8, cy = Fin.ofNat 32 (y0 + r) ∧
        cx = Fin.ofNat 64 (x0 + col) ∧ spriteBit bs[r] col = true := by
  induction bs generalizing y0 with
  | nil => simp [spritePixels]
  | cons b bs ih =>
    rw [spritePixels, List.mem_append, mem_rowPixels, ih]
    constructor
    · rintro (⟨col, h⟩ | ⟨r, hr, col, h⟩)
      · exact ⟨0, by simp, col, by simpa using h⟩
      · refine ⟨r + 1, by simpa using hr, col, ?_⟩
        rw [show y0 + (r + 1) = y0 + 1 + r by omega]
        simpa using h
    · rintro ⟨r, hr, col, h⟩
      cases r with
      | zero => exact .inl ⟨col, by simpa using h⟩
      | succ r =>
        refine .inr ⟨r, by simpa using hr, col, ?_⟩
        rw [show y0 + (r + 1) = y0 + 1 + r by omega] at h
        simpa using h

/-- "Within one DXYN no cell is touched twice" (R117). -/
theorem nodup_spritePixels (bs : List Byte) (x0 y0 : Nat) (h : bs.length ≤ 32) :
    (spritePixels bs x0 y0).Nodup := by
  induction bs generalizing y0 with
  | nil => simp [spritePixels]
  | cons b bs ih =>
    simp only [List.length_cons] at h
    rw [spritePixels, List.nodup_append]
    refine ⟨?_, ih _ (by omega), ?_⟩
    · rw [rowPixels, List.nodup_map_iff_inj_on (List.nodup_range.filter _)]
      intro a ha b hb hab
      simp only [List.mem_filter, List.mem_range] at ha hb
      simp only [Prod.mk.injEq, true_and, Fin.ofNat, Fin.mk.injEq] at hab
      omega
    · rintro ⟨py, px⟩ hp ⟨qy, qx⟩ hq e
      obtain ⟨_, _, h1, _⟩ := (mem_rowPixels ..).1 hp
      obtain ⟨r, hr, _, _, h2, _⟩ := (mem_spritePixels ..).1 hq
      have : py = qy := (Prod.mk.injEq .. ▸ e).1
      rw [h1, h2] at this
      simp only [Fin.ofNat, Fin.mk.injEq] at this
      omega

/-- Every cell and the collision after a draw of at most 32 rows. -/
theorem drawRows_spec (bs : List Byte) (x0 y0 : Nat) (h : bs.length ≤ 32) (d : Drawing) :
    (∀ cy cx, (drawRows bs x0 y0 d).1.cell cy cx =
      (d.1.cell cy cx ^^ decide ((cy, cx) ∈ spritePixels bs x0 y0))) ∧
    (drawRows bs x0 y0 d).2 = (d.2 || (spritePixels bs x0 y0).any fun p => d.1.cell p.1 p.2) := by
  rw [drawRows_eq]
  exact drawPixels_spec _ (nodup_spritePixels bs x0 y0 h) d

/-- Two framebuffers with the same cells are equal. -/
theorem Framebuffer.cell_ext {a b : Framebuffer} (h : ∀ cy cx, a.cell cy cx = b.cell cy cx) : a = b := by
  apply Vector.ext
  intro k hk
  apply BitVec.eq_of_getLsbD_eq
  intro j hj
  exact h ⟨k, hk⟩ ⟨j, hj⟩

/-! ## DXYN -/

@[simp] theorem State.spriteBytes_length (s : State) (n : Nat) : (s.spriteBytes n).length = n := by
  simp [State.spriteBytes]

/-- The pixels of the sprite that DXYN draws are the cells `State.spriteCovers` names. -/
theorem State.mem_spritePixels_iff (s : State) (x y : Reg) (n : Fin 16) (cy : Fin 32) (cx : Fin 64) :
    (cy, cx) ∈ spritePixels (s.spriteBytes n) (s.getV x).toNat (s.getV y).toNat ↔
      s.spriteCovers x y n cy cx := by
  rw [mem_spritePixels]
  constructor
  · rintro ⟨r, hr, col, hc, h1, h2, h3⟩
    refine ⟨r, by simpa using hr, col, hc, by rw [h1]; simp [Fin.ofNat], by rw [h2]; simp [Fin.ofNat], ?_⟩
    simpa [State.spriteBytes, spriteBit, State.effAddr] using h3
  · rintro ⟨r, hr, col, hc, h1, h2, h3⟩
    refine ⟨r, by simpa using hr, col, hc, Fin.ext (by rw [h1]; simp [Fin.ofNat]),
      Fin.ext (by rw [h2]; simp [Fin.ofNat]), ?_⟩
    simpa [State.spriteBytes, spriteBit, State.effAddr] using h3

/-- Every cell and the collision of a DXYN (R117). -/
theorem State.drawing_spec (s : State) (x y : Reg) (n : Fin 16) :
    (∀ cy cx, s.spriteCovers x y n cy cx → (s.drawing x y n).1.cell cy cx = !s.fb.cell cy cx) ∧
    (∀ cy cx, ¬ s.spriteCovers x y n cy cx → (s.drawing x y n).1.cell cy cx = s.fb.cell cy cx) ∧
    ((s.drawing x y n).2 = true ↔ ∃ cy cx, s.spriteCovers x y n cy cx ∧ s.fb.cell cy cx = true) := by
  obtain ⟨h1, h2⟩ := drawRows_spec (s.spriteBytes n) (s.getV x).toNat (s.getV y).toNat
    (by simp; omega) (s.fb, false)
  refine ⟨fun cy cx h => ?_, fun cy cx h => ?_, ?_⟩
  · rw [State.drawing, h1, decide_eq_true ((s.mem_spritePixels_iff ..).2 h)]; simp
  · rw [State.drawing, h1, decide_eq_false (fun e => h ((s.mem_spritePixels_iff ..).1 e))]; simp
  · rw [State.drawing, h2]
    simp only [Bool.false_or, List.any_eq_true, Prod.exists, State.mem_spritePixels_iff]

end Sys2Proof.Machine
end

