-- ==== Sys2Proof/Laws/Flags.lean ====
section
/-! SUPPORT. The flag computations as numbers. -/

namespace Sys2Proof.Machine

theorem flagByte_toNat (c : Bool) : (flagByte c).toNat = if c then 1 else 0 := by cases c <;> rfl

/-- "The flag is always 0 or 1" (R93). -/
theorem flagByte_zero_or_one (c : Bool) : flagByte c = 0 ∨ flagByte c = 1 := by cases c <;> decide

theorem carryFlag_toNat (x y : Byte) :
    (carryFlag x y).toNat = if 255 < x.toNat + y.toNat then 1 else 0 := by
  simp [carryFlag, flagByte_toNat]

theorem notBorrowFlag_toNat (a b : Byte) :
    (notBorrowFlag a b).toNat = if b.toNat > a.toNat then 0 else 1 := by
  simp only [notBorrowFlag, flagByte_toNat, decide_eq_true_eq]
  split <;> split <;> omega

theorem shiftedOutRight_toNat (x : Byte) : (shiftedOutRight x).toNat = x.toNat % 2 := by
  have : x.toNat % 2 < 2 := Nat.mod_lt _ (by decide)
  simp [shiftedOutRight, flagByte_toNat, BitVec.getLsbD, Nat.testBit]
  split <;> omega

theorem shiftedOutLeft_toNat (x : Byte) : (shiftedOutLeft x).toNat = x.toNat / 128 := by
  have := x.isLt
  simp [shiftedOutLeft, flagByte_toNat, BitVec.getLsbD, Nat.testBit, Nat.shiftRight_eq_div_pow]
  split <;> omega

theorem addressOverflowFlag_toNat (i : Word) (x : Byte) :
    (addressOverflowFlag i x).toNat = if 0xFFF < i.toNat + x.toNat then 1 else 0 := by
  simp [addressOverflowFlag, flagByte_toNat]

/-- `(a - b) mod 256` as R80 spells it out. -/
theorem byte_sub_toNat (a b : Byte) :
    (a - b).toNat = if b.toNat ≤ a.toNat then a.toNat - b.toNat else a.toNat + 256 - b.toNat := by
  have := a.isLt; have := b.isLt
  simp only [BitVec.toNat_sub]; split <;> omega

end Sys2Proof.Machine
end

