-- ==== Sys2Proof/Laws/Exec.lean ====
section
/-! SUPPORT. What the shared operations of the meanings can do: stack, register block store and load,
key scan. -/

namespace Sys2Proof.Machine

/-! ## Stack -/

theorem State.push_of_room (s : State) (w : Word) (h : s.sp.val < 16) :
    s.push w = some { s with
      stack := s.stack.set s.sp.val w, sp := ⟨s.sp.val + 1, by omega⟩ } := by
  simp [State.push, h]

theorem State.push_of_full (s : State) (w : Word) (h : s.sp.val = 16) : s.push w = none := by
  simp [State.push, h]

theorem State.pop_of_used (s : State) (h : 0 < s.sp.val) :
    s.pop = some (s.stack[s.sp.val - 1]'(by omega), { s with sp := ⟨s.sp.val - 1, by omega⟩ }) := by
  simp [State.pop, h]

theorem State.pop_of_empty (s : State) (h : s.sp.val = 0) : s.pop = none := by
  simp [State.pop, h]

/-! ## Register block store and load -/

@[simp] theorem mem_regsUpTo (x r : Reg) : r ∈ regsUpTo x ↔ r ≤ x := by simp [regsUpTo]

theorem State.effAddr_inj (s : State) {j k : Nat} (hj : j < 4096) (hk : k < 4096)
    (h : s.effAddr j = s.effAddr k) : j = k := by
  simp only [State.effAddr, addr12] at h
  omega

theorem State.sameButMem_storeRegs (s : State) (rs : List Reg) : s.SameButMem (s.storeRegs rs) := by
  unfold State.storeRegs
  suffices ∀ t, s.SameButMem t →
      s.SameButMem (rs.foldl (fun t k => t.writeByte (s.effAddr k.val) (s.getV k)) t) from
    this s (.rfl s)
  induction rs with
  | nil => exact fun t h => h
  | cons r rs ih => exact fun t h => ih _ (h.writeByte _ _)

theorem State.memWf_storeRegs {s : State} (rs : List Reg) (h : s.memWf) : (s.storeRegs rs).memWf := by
  unfold State.storeRegs
  suffices ∀ t : State, t.memWf →
      (rs.foldl (fun t k => t.writeByte (s.effAddr k.val) (s.getV k)) t).memWf from this s h
  induction rs with
  | nil => exact fun t h => h
  | cons r rs ih => exact fun t h => ih _ (State.memWf_writeByte _ _ h)

/-- Every byte after a block store: V[k] at the address of byte k, and every other byte as before. -/
theorem State.readByte_storeRegs (s : State) (rs : List Reg) (b : Nat) :
    (∀ k ∈ rs, addr12 b = s.effAddr k.val → (s.storeRegs rs).readByte b = s.getV k) ∧
    ((∀ k ∈ rs, addr12 b ≠ s.effAddr k.val) → (s.storeRegs rs).readByte b = s.readByte b) := by
  unfold State.storeRegs
  suffices ∀ t : State,
      (∀ k ∈ rs, addr12 b = s.effAddr k.val →
        (rs.foldl (fun t k => t.writeByte (s.effAddr k.val) (s.getV k)) t).readByte b = s.getV k) ∧
      ((∀ k ∈ rs, addr12 b ≠ s.effAddr k.val) →
        (rs.foldl (fun t k => t.writeByte (s.effAddr k.val) (s.getV k)) t).readByte b = t.readByte b)
    from this s
  have he : ∀ k, addr12 (s.effAddr k) = s.effAddr k := fun k => addr12_addr12 _
  induction rs with
  | nil => simp
  | cons r rs ih =>
    intro t
    simp only [List.foldl_cons, List.mem_cons, forall_eq_or_imp]
    refine ⟨⟨fun hb => ?_, (ih _).1⟩, fun ⟨h0, h⟩ => ?_⟩
    · by_cases hm : ∃ k ∈ rs, addr12 b = s.effAddr k.val
      · obtain ⟨k, hk, hk2⟩ := hm
        have := s.effAddr_inj (by omega) (by omega) (hb.symm.trans hk2)
        rw [(ih _).1 k hk hk2, Fin.ext this]
      · rw [(ih _).2 fun k hk e => hm ⟨k, hk, e⟩, State.readByte_writeByte, he, if_pos hb]
    · rw [(ih _).2 h, State.readByte_writeByte, he, if_neg h0]

/-- A block load changes the listed registers, each to the byte at its address, and nothing else. -/
theorem State.loadRegs_spec (s : State) (rs : List Reg) :
    (∀ q, (s.loadRegs rs).getV q = if q ∈ rs then s.readByte (s.effAddr q.val) else s.getV q) ∧
    ∃ v, s.loadRegs rs = { s with v := v } := by
  unfold State.loadRegs
  suffices ∀ t : State,
      (∀ q, (rs.foldl (fun t k => t.setV k (s.readByte (s.effAddr k.val))) t).getV q =
        if q ∈ rs then s.readByte (s.effAddr q.val) else t.getV q) ∧
      ∃ v, rs.foldl (fun t k => t.setV k (s.readByte (s.effAddr k.val))) t = { t with v := v } from this s
  induction rs with
  | nil => exact fun t => ⟨by simp, t.v, rfl⟩
  | cons r rs ih =>
    intro t
    obtain ⟨h1, v, h2⟩ := ih (t.setV r (s.readByte (s.effAddr r.val)))
    refine ⟨fun q => ?_, v, by rw [List.foldl_cons, h2]; rfl⟩
    rw [List.foldl_cons, h1]
    by_cases hq : q ∈ rs <;> by_cases hr : q = r <;> simp [hq, hr]

/-! ## Key scan -/

/-- Every key stands in every scan order. -/
theorem mem_scanOrder (p : KeyPriority) (pick k : Fin 16) : k ∈ scanOrder p pick := by
  cases p
  · simp [scanOrder]
  · simp [scanOrder]
  · simp only [scanOrder, List.mem_map, List.mem_finRange, true_and]
    exact ⟨k - pick, by simp⟩

theorem State.pickKey_pressed {s : State} {k : Reg} (h : s.pickKey = some k) : s.input.key[k] = true := by
  unfold State.pickKey at h
  exact List.find?_some (p := fun k => s.input.key[k]) h

theorem State.pickKey_none_iff (s : State) : s.pickKey = none ↔ ∀ k : Fin 16, s.input.key[k] = false := by
  simp only [State.pickKey, List.find?_eq_none, Bool.not_eq_true]
  exact ⟨fun h k => h k (mem_scanOrder _ _ k), fun h k _ => h k⟩

/-- A scan of a sorted list ends on the first hit in its order. -/
theorem find?_first {r : Fin 16 → Fin 16 → Prop} {l : List (Fin 16)} (hl : l.Pairwise r)
    (hr : ∀ a b, r a b → ¬ r b a) (hirr : ∀ a, ¬ r a a) {f : Fin 16 → Bool} {k j : Fin 16}
    (h : l.find? f = some k) (hj : j ∈ l) (hjk : r j k) : f j = false := by
  rw [List.find?_eq_some_iff_append] at h
  obtain ⟨-, as, bs, e, ha⟩ := h
  subst e
  rw [List.mem_append, List.mem_cons] at hj
  rcases hj with hj | rfl | hj
  · simpa using ha j hj
  · exact absurd hjk (hirr _)
  · exact absurd hjk (hr _ _ ((List.pairwise_cons.1 (List.pairwise_append.1 hl).2.1).1 j hj))

/-- `KEY_PRIORITY = lowest`: no key below the one returned is down (R128). -/
theorem State.pickKey_lowest {s : State} {k : Reg} (hp : s.cfg.keyPriority = .lowest)
    (h : s.pickKey = some k) (j : Fin 16) (hj : j < k) : s.input.key[j] = false := by
  simp only [State.pickKey, hp, scanOrder] at h
  exact find?_first (r := (· < ·)) (f := fun k => s.input.key[k]) (by decide)
    (fun a b h => by omega) (fun a => by omega) h (List.mem_finRange j) hj

/-- `KEY_PRIORITY = highest`: no key above the one returned is down (R128). -/
theorem State.pickKey_highest {s : State} {k : Reg} (hp : s.cfg.keyPriority = .highest)
    (h : s.pickKey = some k) (j : Fin 16) (hj : k < j) : s.input.key[j] = false := by
  simp only [State.pickKey, hp, scanOrder] at h
  exact find?_first (r := (· > ·)) (f := fun k => s.input.key[k]) (by decide)
    (fun a b h => by omega) (fun a => by omega) h (by simp) hj

/-- `KEY_PRIORITY = any`: the free key is returned if it is down (R128). -/
theorem State.pickKey_any {s : State} (hp : s.cfg.keyPriority = .any)
    (h : s.input.key[s.input.pick] = true) : s.pickKey = some s.input.pick := by
  have : scanOrder .any s.input.pick =
      s.input.pick :: ((List.finRange 16).map fun k => s.input.pick + k).tail := by
    simp [scanOrder, List.finRange_succ]
  rw [State.pickKey, hp, this, List.find?_cons_of_pos (by exact h)]

/-! ## I after a block store or load -/

theorem State.lsIncrement_eq (s : State) (i : Word) (x : Reg) :
    s.lsIncrement i x = { s with
      i := if s.cfg.lsIncrementI then BitVec.ofNat 16 (addr12 (i.toNat + x.val + 1)) else s.i } := by
  simp only [State.lsIncrement]
  split <;> simp [*, State.setI]

end Sys2Proof.Machine
end

