-- ==== Sys2Proof/Laws/PerInstr.lean ====
section
/-! SUPPORT. Statements made instruction by instruction, about the instruction as syntax. -/

namespace Sys2Proof.Laws

/-! ## OperandsInRange: every instruction is well-formed -/

/-- The instruction passes every check of WellFormed: no value of a field is illegal (R48). -/
def OperandsInRange.Statement (i : Instr) : Prop := i.wellFormed = true

theorem register_ok (x : Reg) : WellFormed.register x = true := decide_eq_true x.isLt
theorem rowCount_ok (n : Fin 16) : WellFormed.rowCount n = true := decide_eq_true n.isLt
theorem immediate_ok (nn : Byte) : WellFormed.immediate nn.toNat = true := decide_eq_true nn.isLt
theorem address_ok (nnn : Addr) : WellFormed.address nnn.toNat = true := decide_eq_true nnn.isLt

theorem register_register_ok (x y : Reg) : (WellFormed.register x && WellFormed.register y) = true := by
  simp [register_ok]

theorem register_immediate_ok (x : Reg) (nn : Byte) :
    (WellFormed.register x && WellFormed.immediate nn.toNat) = true := by
  simp [register_ok, immediate_ok]

theorem OperandsInRange.op00EE : OperandsInRange.Statement .op00EE := rfl
theorem OperandsInRange.op1NNN (nnn : Addr) : OperandsInRange.Statement (.op1NNN nnn) :=
  address_ok nnn
theorem OperandsInRange.op2NNN (nnn : Addr) : OperandsInRange.Statement (.op2NNN nnn) :=
  address_ok nnn
theorem OperandsInRange.opBNNN (nnn : Addr) : OperandsInRange.Statement (.opBNNN nnn) :=
  address_ok nnn
theorem OperandsInRange.op3XNN (x : Reg) (nn : Byte) : OperandsInRange.Statement (.op3XNN x nn) :=
  register_immediate_ok x nn
theorem OperandsInRange.op4XNN (x : Reg) (nn : Byte) : OperandsInRange.Statement (.op4XNN x nn) :=
  register_immediate_ok x nn
theorem OperandsInRange.op5XY0 (x y : Reg) : OperandsInRange.Statement (.op5XY0 x y) :=
  register_register_ok x y
theorem OperandsInRange.op9XY0 (x y : Reg) : OperandsInRange.Statement (.op9XY0 x y) :=
  register_register_ok x y
theorem OperandsInRange.op6XNN (x : Reg) (nn : Byte) : OperandsInRange.Statement (.op6XNN x nn) :=
  register_immediate_ok x nn
theorem OperandsInRange.op7XNN (x : Reg) (nn : Byte) : OperandsInRange.Statement (.op7XNN x nn) :=
  register_immediate_ok x nn
theorem OperandsInRange.op8XY0 (x y : Reg) : OperandsInRange.Statement (.op8XY0 x y) :=
  register_register_ok x y
theorem OperandsInRange.op8XY1 (x y : Reg) : OperandsInRange.Statement (.op8XY1 x y) :=
  register_register_ok x y
theorem OperandsInRange.op8XY2 (x y : Reg) : OperandsInRange.Statement (.op8XY2 x y) :=
  register_register_ok x y
theorem OperandsInRange.op8XY3 (x y : Reg) : OperandsInRange.Statement (.op8XY3 x y) :=
  register_register_ok x y
theorem OperandsInRange.op8XY4 (x y : Reg) : OperandsInRange.Statement (.op8XY4 x y) :=
  register_register_ok x y
theorem OperandsInRange.op8XY5 (x y : Reg) : OperandsInRange.Statement (.op8XY5 x y) :=
  register_register_ok x y
theorem OperandsInRange.op8XY6 (x y : Reg) : OperandsInRange.Statement (.op8XY6 x y) :=
  register_register_ok x y
theorem OperandsInRange.op8XY7 (x y : Reg) : OperandsInRange.Statement (.op8XY7 x y) :=
  register_register_ok x y
theorem OperandsInRange.op8XYE (x y : Reg) : OperandsInRange.Statement (.op8XYE x y) :=
  register_register_ok x y
theorem OperandsInRange.opCXNN (x : Reg) (nn : Byte) : OperandsInRange.Statement (.opCXNN x nn) :=
  register_immediate_ok x nn
theorem OperandsInRange.opANNN (nnn : Addr) : OperandsInRange.Statement (.opANNN nnn) :=
  address_ok nnn
theorem OperandsInRange.opFX1E (x : Reg) : OperandsInRange.Statement (.opFX1E x) :=
  register_ok x
theorem OperandsInRange.opFX29 (x : Reg) : OperandsInRange.Statement (.opFX29 x) :=
  register_ok x
theorem OperandsInRange.opFX33 (x : Reg) : OperandsInRange.Statement (.opFX33 x) :=
  register_ok x
theorem OperandsInRange.opFX55 (x : Reg) : OperandsInRange.Statement (.opFX55 x) :=
  register_ok x
theorem OperandsInRange.opFX65 (x : Reg) : OperandsInRange.Statement (.opFX65 x) :=
  register_ok x
theorem OperandsInRange.op00E0 : OperandsInRange.Statement .op00E0 := rfl
theorem OperandsInRange.opDXYN (x y : Reg) (n : Fin 16) : OperandsInRange.Statement (.opDXYN x y n) := by
  simp [OperandsInRange.Statement, Instr.wellFormed, register_ok, rowCount_ok]
theorem OperandsInRange.opEX9E (x : Reg) : OperandsInRange.Statement (.opEX9E x) :=
  register_ok x
theorem OperandsInRange.opEXA1 (x : Reg) : OperandsInRange.Statement (.opEXA1 x) :=
  register_ok x
theorem OperandsInRange.opFX0A (x : Reg) : OperandsInRange.Statement (.opFX0A x) :=
  register_ok x
theorem OperandsInRange.opFX07 (x : Reg) : OperandsInRange.Statement (.opFX07 x) :=
  register_ok x
theorem OperandsInRange.opFX15 (x : Reg) : OperandsInRange.Statement (.opFX15 x) :=
  register_ok x
theorem OperandsInRange.opFX18 (x : Reg) : OperandsInRange.Statement (.opFX18 x) :=
  register_ok x

/-! ## RowMatch: the word of every instruction matches its row of the opcode map -/

/-- The encoded word carries the literal bits of the instruction's row (R50, R51). -/
def RowMatch.Statement (i : Instr) : Prop := i.row.matchesWord (encode i) = true

theorem RowMatch.op00EE : RowMatch.Statement .op00EE :=
  (matches_FFFF _ _ _).2 rfl
theorem RowMatch.op1NNN (nnn : Addr) : RowMatch.Statement (.op1NNN nnn) := by
  refine (matches_F000 _ _ _ (by decide)).2 ?_
  simp only [encode, fieldOP_toNat, toNat_formatNNN, BitVec.toNat_ofNat, BitVec.reduceToNat]
  omega
theorem RowMatch.op2NNN (nnn : Addr) : RowMatch.Statement (.op2NNN nnn) := by
  refine (matches_F000 _ _ _ (by decide)).2 ?_
  simp only [encode, fieldOP_toNat, toNat_formatNNN, BitVec.toNat_ofNat, BitVec.reduceToNat]
  omega
theorem RowMatch.opBNNN (nnn : Addr) : RowMatch.Statement (.opBNNN nnn) := by
  refine (matches_F000 _ _ _ (by decide)).2 ?_
  simp only [encode, fieldOP_toNat, toNat_formatNNN, BitVec.toNat_ofNat, BitVec.reduceToNat]
  omega
theorem RowMatch.op3XNN (x : Reg) (nn : Byte) : RowMatch.Statement (.op3XNN x nn) := by
  refine (matches_F000 _ _ _ (by decide)).2 ?_
  simp only [encode, fieldOP_toNat, toNat_formatXNN, BitVec.toNat_ofNat, BitVec.reduceToNat, digit_toNat]
  omega
theorem RowMatch.op4XNN (x : Reg) (nn : Byte) : RowMatch.Statement (.op4XNN x nn) := by
  refine (matches_F000 _ _ _ (by decide)).2 ?_
  simp only [encode, fieldOP_toNat, toNat_formatXNN, BitVec.toNat_ofNat, BitVec.reduceToNat, digit_toNat]
  omega
theorem RowMatch.op5XY0 (x y : Reg) : RowMatch.Statement (.op5XY0 x y) := by
  refine (matches_F00F _ _ _ (by decide)).2 ?_
  simp only [encode, fieldOP_toNat, fieldN_val, toNat_formatXYN, BitVec.toNat_ofNat, BitVec.reduceToNat, digit_toNat]
  omega
theorem RowMatch.op9XY0 (x y : Reg) : RowMatch.Statement (.op9XY0 x y) := by
  refine (matches_F00F _ _ _ (by decide)).2 ?_
  simp only [encode, fieldOP_toNat, fieldN_val, toNat_formatXYN, BitVec.toNat_ofNat, BitVec.reduceToNat, digit_toNat]
  omega
theorem RowMatch.op6XNN (x : Reg) (nn : Byte) : RowMatch.Statement (.op6XNN x nn) := by
  refine (matches_F000 _ _ _ (by decide)).2 ?_
  simp only [encode, fieldOP_toNat, toNat_formatXNN, BitVec.toNat_ofNat, BitVec.reduceToNat, digit_toNat]
  omega
theorem RowMatch.op7XNN (x : Reg) (nn : Byte) : RowMatch.Statement (.op7XNN x nn) := by
  refine (matches_F000 _ _ _ (by decide)).2 ?_
  simp only [encode, fieldOP_toNat, toNat_formatXNN, BitVec.toNat_ofNat, BitVec.reduceToNat, digit_toNat]
  omega
theorem RowMatch.op8XY0 (x y : Reg) : RowMatch.Statement (.op8XY0 x y) := by
  refine (matches_F00F _ _ _ (by decide)).2 ?_
  simp only [encode, fieldOP_toNat, fieldN_val, toNat_formatXYN, BitVec.toNat_ofNat, BitVec.reduceToNat, digit_toNat]
  omega
theorem RowMatch.op8XY1 (x y : Reg) : RowMatch.Statement (.op8XY1 x y) := by
  refine (matches_F00F _ _ _ (by decide)).2 ?_
  simp only [encode, fieldOP_toNat, fieldN_val, toNat_formatXYN, BitVec.toNat_ofNat, BitVec.reduceToNat, digit_toNat]
  omega
theorem RowMatch.op8XY2 (x y : Reg) : RowMatch.Statement (.op8XY2 x y) := by
  refine (matches_F00F _ _ _ (by decide)).2 ?_
  simp only [encode, fieldOP_toNat, fieldN_val, toNat_formatXYN, BitVec.toNat_ofNat, BitVec.reduceToNat, digit_toNat]
  omega
theorem RowMatch.op8XY3 (x y : Reg) : RowMatch.Statement (.op8XY3 x y) := by
  refine (matches_F00F _ _ _ (by decide)).2 ?_
  simp only [encode, fieldOP_toNat, fieldN_val, toNat_formatXYN, BitVec.toNat_ofNat, BitVec.reduceToNat, digit_toNat]
  omega
theorem RowMatch.op8XY4 (x y : Reg) : RowMatch.Statement (.op8XY4 x y) := by
  refine (matches_F00F _ _ _ (by decide)).2 ?_
  simp only [encode, fieldOP_toNat, fieldN_val, toNat_formatXYN, BitVec.toNat_ofNat, BitVec.reduceToNat, digit_toNat]
  omega
theorem RowMatch.op8XY5 (x y : Reg) : RowMatch.Statement (.op8XY5 x y) := by
  refine (matches_F00F _ _ _ (by decide)).2 ?_
  simp only [encode, fieldOP_toNat, fieldN_val, toNat_formatXYN, BitVec.toNat_ofNat, BitVec.reduceToNat, digit_toNat]
  omega
theorem RowMatch.op8XY6 (x y : Reg) : RowMatch.Statement (.op8XY6 x y) := by
  refine (matches_F00F _ _ _ (by decide)).2 ?_
  simp only [encode, fieldOP_toNat, fieldN_val, toNat_formatXYN, BitVec.toNat_ofNat, BitVec.reduceToNat, digit_toNat]
  omega
theorem RowMatch.op8XY7 (x y : Reg) : RowMatch.Statement (.op8XY7 x y) := by
  refine (matches_F00F _ _ _ (by decide)).2 ?_
  simp only [encode, fieldOP_toNat, fieldN_val, toNat_formatXYN, BitVec.toNat_ofNat, BitVec.reduceToNat, digit_toNat]
  omega
theorem RowMatch.op8XYE (x y : Reg) : RowMatch.Statement (.op8XYE x y) := by
  refine (matches_F00F _ _ _ (by decide)).2 ?_
  simp only [encode, fieldOP_toNat, fieldN_val, toNat_formatXYN, BitVec.toNat_ofNat, BitVec.reduceToNat, digit_toNat]
  omega
theorem RowMatch.opCXNN (x : Reg) (nn : Byte) : RowMatch.Statement (.opCXNN x nn) := by
  refine (matches_F000 _ _ _ (by decide)).2 ?_
  simp only [encode, fieldOP_toNat, toNat_formatXNN, BitVec.toNat_ofNat, BitVec.reduceToNat, digit_toNat]
  omega
theorem RowMatch.opANNN (nnn : Addr) : RowMatch.Statement (.opANNN nnn) := by
  refine (matches_F000 _ _ _ (by decide)).2 ?_
  simp only [encode, fieldOP_toNat, toNat_formatNNN, BitVec.toNat_ofNat, BitVec.reduceToNat]
  omega
theorem RowMatch.opFX1E (x : Reg) : RowMatch.Statement (.opFX1E x) := by
  refine (matches_F0FF _ _ _ (by decide)).2 ?_
  simp only [encode, fieldOP_toNat, fieldNN_toNat, toNat_formatXNN, BitVec.toNat_ofNat, BitVec.reduceToNat, digit_toNat]
  omega
theorem RowMatch.opFX29 (x : Reg) : RowMatch.Statement (.opFX29 x) := by
  refine (matches_F0FF _ _ _ (by decide)).2 ?_
  simp only [encode, fieldOP_toNat, fieldNN_toNat, toNat_formatXNN, BitVec.toNat_ofNat, BitVec.reduceToNat, digit_toNat]
  omega
theorem RowMatch.opFX33 (x : Reg) : RowMatch.Statement (.opFX33 x) := by
  refine (matches_F0FF _ _ _ (by decide)).2 ?_
  simp only [encode, fieldOP_toNat, fieldNN_toNat, toNat_formatXNN, BitVec.toNat_ofNat, BitVec.reduceToNat, digit_toNat]
  omega
theorem RowMatch.opFX55 (x : Reg) : RowMatch.Statement (.opFX55 x) := by
  refine (matches_F0FF _ _ _ (by decide)).2 ?_
  simp only [encode, fieldOP_toNat, fieldNN_toNat, toNat_formatXNN, BitVec.toNat_ofNat, BitVec.reduceToNat, digit_toNat]
  omega
theorem RowMatch.opFX65 (x : Reg) : RowMatch.Statement (.opFX65 x) := by
  refine (matches_F0FF _ _ _ (by decide)).2 ?_
  simp only [encode, fieldOP_toNat, fieldNN_toNat, toNat_formatXNN, BitVec.toNat_ofNat, BitVec.reduceToNat, digit_toNat]
  omega
theorem RowMatch.op00E0 : RowMatch.Statement .op00E0 :=
  (matches_FFFF _ _ _).2 rfl
theorem RowMatch.opDXYN (x y : Reg) (n : Fin 16) : RowMatch.Statement (.opDXYN x y n) := by
  refine (matches_F000 _ _ _ (by decide)).2 ?_
  simp only [encode, fieldOP_toNat, toNat_formatXYN, BitVec.toNat_ofNat, BitVec.reduceToNat, digit_toNat]
  omega
theorem RowMatch.opEX9E (x : Reg) : RowMatch.Statement (.opEX9E x) := by
  refine (matches_F0FF _ _ _ (by decide)).2 ?_
  simp only [encode, fieldOP_toNat, fieldNN_toNat, toNat_formatXNN, BitVec.toNat_ofNat, BitVec.reduceToNat, digit_toNat]
  omega
theorem RowMatch.opEXA1 (x : Reg) : RowMatch.Statement (.opEXA1 x) := by
  refine (matches_F0FF _ _ _ (by decide)).2 ?_
  simp only [encode, fieldOP_toNat, fieldNN_toNat, toNat_formatXNN, BitVec.toNat_ofNat, BitVec.reduceToNat, digit_toNat]
  omega
theorem RowMatch.opFX0A (x : Reg) : RowMatch.Statement (.opFX0A x) := by
  refine (matches_F0FF _ _ _ (by decide)).2 ?_
  simp only [encode, fieldOP_toNat, fieldNN_toNat, toNat_formatXNN, BitVec.toNat_ofNat, BitVec.reduceToNat, digit_toNat]
  omega
theorem RowMatch.opFX07 (x : Reg) : RowMatch.Statement (.opFX07 x) := by
  refine (matches_F0FF _ _ _ (by decide)).2 ?_
  simp only [encode, fieldOP_toNat, fieldNN_toNat, toNat_formatXNN, BitVec.toNat_ofNat, BitVec.reduceToNat, digit_toNat]
  omega
theorem RowMatch.opFX15 (x : Reg) : RowMatch.Statement (.opFX15 x) := by
  refine (matches_F0FF _ _ _ (by decide)).2 ?_
  simp only [encode, fieldOP_toNat, fieldNN_toNat, toNat_formatXNN, BitVec.toNat_ofNat, BitVec.reduceToNat, digit_toNat]
  omega
theorem RowMatch.opFX18 (x : Reg) : RowMatch.Statement (.opFX18 x) := by
  refine (matches_F0FF _ _ _ (by decide)).2 ?_
  simp only [encode, fieldOP_toNat, fieldNN_toNat, toNat_formatXNN, BitVec.toNat_ofNat, BitVec.reduceToNat, digit_toNat]
  omega

end Sys2Proof.Laws
end

