-- ==== Sys2Proof/Laws/Step.lean ====
section
/-! SUPPORT. What one Step can do, and what its parts change. -/

namespace Sys2Proof.Machine

/-! ## TimerTick -/

theorem State.timerTick_of_fault {s : State} (h : s.fault ≠ .none) : s.timerTick = s.emitTone false := by
  simp [State.timerTick, h]

theorem State.timerTick_of_running {s : State} (h : s.fault = .none) :
    s.timerTick = State.emitTone { s with
      dt := if s.dt = 0 then 0 else s.dt - 1
      st := if s.st = 0 then 0 else s.st - 1 } (s.st == 1) := by
  simp [State.timerTick, h]

/-- A TimerTick changes DT and ST alone and gives one output (R154). -/
theorem State.timerTick_spec (s : State) :
    ∃ d t o, s.timerTick = { s with dt := d, st := t, tones := s.tones ++ [o] } := by
  by_cases h : s.fault = .none
  · exact ⟨_, _, _, State.timerTick_of_running h⟩
  · exact ⟨s.dt, s.st, _, State.timerTick_of_fault h⟩

/-- The output of a TimerTick, in every state (R154, R156). -/
theorem State.timerTick_toneReq (s : State) :
    s.timerTick.toneReq = true ↔ s.fault = .none ∧ s.st = 1 := by
  by_cases h : s.fault = .none
  · simp [State.timerTick_of_running h, h]
  · simp [State.timerTick_of_fault h, h]

theorem State.stepTick_spec (s : State) :
    ∃ d t o, s.stepTick = { s with dt := d, st := t, tones := o } := by
  unfold State.stepTick
  split
  · split
    · obtain ⟨d, t, o, e⟩ := s.timerTick_spec
      exact ⟨d, t, _, e⟩
    · exact ⟨s.dt, s.st, s.tones, rfl⟩
  · exact ⟨s.dt, s.st, s.tones, rfl⟩

/-! ## The end of a Step -/

theorem State.finishStep_of_idle {s : State} (h : s.hostIdle) : s.finishStep = s.stepTick.takeInput := by
  unfold State.hostIdle at h
  simp [State.finishStep, h]

theorem State.stepTick_of_fault {s : State} (h : s.fault ≠ .none) : s.stepTick = s := by
  unfold State.stepTick
  split <;> simp [h]

theorem State.stepTick_of_running {s : State} (h : s.fault = .none) (hm : s.cfg.timerMode = .perStep) :
    s.stepTick = s.timerTick := by
  simp [State.stepTick, hm, h]

/-! ## Fetch -/

theorem State.fetch_of_fault {s : State} (h : s.fault ≠ .none) : s.fetch = .halted := by
  simp [State.fetch, h]

theorem State.fetch_of_badPc {s : State} (h : s.fault = .none) (hp : fetchable s.pc = false) :
    s.fetch = .badPc := by
  simp [State.fetch, h, hp]

theorem State.fetch_of_good {s : State} (h : s.fault = .none) (hp : fetchable s.pc = true) :
    s.fetch = .word (s.readWord s.pc.toNat) := by
  simp [State.fetch, h, hp]

@[simp] theorem State.clearOutputs_readWord (s : State) (a : Nat) :
    s.clearOutputs.readWord a = s.readWord a := rfl

theorem fetchable_iff (pc : Word) :
    fetchable pc = true ↔ pc.toNat % 2 = 0 ∧ 0x200 ≤ pc.toNat ∧ pc.toNat ≤ 0xFFE := by
  simp [fetchable, and_assoc]

/-! ## The Step -/

/-- Everything a Step that answers a next state can be, in the order of R147. -/
theorem step_cases {s t : State} (h : step s = .next t) :
    (s.fault ≠ .none ∧ t = s.clearOutputs.finishStep) ∨
    (s.fault = .none ∧ fetchable s.pc = false ∧ t = (s.clearOutputs.raise .pcFault).finishStep) ∨
    (s.fault = .none ∧ fetchable s.pc = true ∧ decodeWord (s.readWord s.pc.toNat) = none ∧
      t = (s.clearOutputs.unknownOpcode (s.readWord s.pc.toNat)).finishStep) ∨
    (∃ i u, s.runsNext i ∧ exec i s.clearOutputs = .next u ∧ t = u.finishStep) := by
  unfold step at h
  by_cases hf : s.fault = .none
  · by_cases hp : fetchable s.pc = true
    · rw [State.fetch_of_good (by simpa using hf) (by simpa using hp)] at h
      simp only [State.clearOutputs_readWord, State.clearOutputs_pc] at h
      cases hd : decodeWord (s.readWord s.pc.toNat) with
      | none => rw [hd] at h; cases h; exact .inr (.inr (.inl ⟨hf, hp, rfl, rfl⟩))
      | some i =>
        rw [hd] at h
        simp only at h
        split at h
        · cases h; exact .inr (.inr (.inr ⟨i, _, ⟨hf, hp, hd⟩, by assumption, rfl⟩))
        · cases h
        · cases h
    · rw [Bool.not_eq_true] at hp
      rw [State.fetch_of_badPc (by simpa using hf) (by simpa using hp)] at h
      cases h
      exact .inr (.inl ⟨hf, hp, rfl⟩)
  · rw [State.fetch_of_fault (by simpa using hf)] at h
    cases h
    exact .inl ⟨hf, rfl⟩

theorem step_of_halted {s : State} (h : s.fault ≠ .none) : step s = .next s.clearOutputs.finishStep := by
  unfold step
  rw [State.fetch_of_fault (by simpa using h)]

theorem step_of_badPc {s : State} (h : s.fault = .none) (hp : fetchable s.pc = false) :
    step s = .next (s.clearOutputs.raise .pcFault).finishStep := by
  unfold step
  rw [State.fetch_of_badPc (by simpa using h) (by simpa using hp)]

theorem step_of_unknown {s : State} (h : s.fault = .none) (hp : fetchable s.pc = true)
    (hd : decodeWord (s.readWord s.pc.toNat) = none) :
    step s = .next (s.clearOutputs.unknownOpcode (s.readWord s.pc.toNat)).finishStep := by
  unfold step
  rw [State.fetch_of_good (by simpa using h) (by simpa using hp)]
  simp only [State.clearOutputs_readWord, State.clearOutputs_pc, hd]

theorem step_of_runsNext {s u : State} {i : Instr} (h : s.runsNext i)
    (he : exec i s.clearOutputs = .next u) : step s = .next u.finishStep := by
  obtain ⟨h, hp, hd⟩ := h
  unfold step
  rw [State.fetch_of_good (by exact h) (by simpa using hp)]
  simp only [State.clearOutputs_readWord, State.clearOutputs_pc, hd, he]

/-- What holds of the state after the tick and of every host move holds at the end of a Step. -/
theorem State.finishStep_induct {P : State → Prop} (hm : ∀ s m, P s → P (s.hostMove m)) (s : State)
    (h : P s.stepTick.takeInput) : P s.finishStep := by
  unfold State.finishStep
  generalize s.stepTick.takeInput = t at h
  induction s.input.after generalizing t with
  | nil => exact h
  | cons m l ih => exact ih _ (hm _ _ h)

end Sys2Proof.Machine
end

