-- ==== Sys2Proof/Tests/Slice0.lean ====
section
/-! SUPPORT. Tests: the well-formedness checks, one word for each instruction written out from the
patterns of spec/30_encoding.md R51, single Steps with the results of spec/95_test_vectors.md (the vector
is named in each comment), and witnesses of the hypotheses of the obligations. -/

namespace Sys2Proof.Tests

open Sys2Proof.Machine

/-! ## Well-formedness: a number outside the range of each field is refused -/

theorem test_register_16_refused : WellFormed.register 16 = false := by decide
theorem test_rowCount_16_refused : WellFormed.rowCount 16 = false := by decide
theorem test_immediate_256_refused : WellFormed.immediate 256 = false := by decide
theorem test_address_4096_refused : WellFormed.address 4096 = false := by decide
theorem test_register_15_accepted : (Instr.op8XY4 15 15).wellFormed = true := by decide

/-! ## Decoding: bits written out from the patterns of R51 -/

theorem test_decode_family_0 :
    decodeWord 0b0000000011100000 = some .op00E0 ∧ decodeWord 0b0000000011101110 = some .op00EE := by
  decide

theorem test_decode_nnn :
    decodeWord 0b0001101010111100 = some (.op1NNN 0xABC) ∧
    decodeWord 0b0010101010111100 = some (.op2NNN 0xABC) ∧
    decodeWord 0b1010000100100011 = some (.opANNN 0x123) ∧
    decodeWord 0b1011111111111111 = some (.opBNNN 0xFFF) := by decide

theorem test_decode_xnn :
    decodeWord 0b0011101001000010 = some (.op3XNN 0xA 0x42) ∧
    decodeWord 0b0100101001000010 = some (.op4XNN 0xA 0x42) ∧
    decodeWord 0b0110101001111111 = some (.op6XNN 0xA 0x7F) ∧
    decodeWord 0b0111000111111111 = some (.op7XNN 0x1 0xFF) ∧
    decodeWord 0b1100000100001111 = some (.opCXNN 0x1 0x0F) := by decide

theorem test_decode_xyf :
    decodeWord 0b0101000100100000 = some (.op5XY0 1 2) ∧
    decodeWord 0b1001000100100000 = some (.op9XY0 1 2) ∧
    decodeWord 0b1000000100100000 = some (.op8XY0 1 2) ∧
    decodeWord 0b1000000100100001 = some (.op8XY1 1 2) ∧
    decodeWord 0b1000000100100010 = some (.op8XY2 1 2) ∧
    decodeWord 0b1000000100100011 = some (.op8XY3 1 2) := by decide

theorem test_decode_xyf_flag :
    decodeWord 0b1000000100100100 = some (.op8XY4 1 2) ∧
    decodeWord 0b1000000100100101 = some (.op8XY5 1 2) ∧
    decodeWord 0b1000000100100110 = some (.op8XY6 1 2) ∧
    decodeWord 0b1000000100100111 = some (.op8XY7 1 2) ∧
    decodeWord 0b1000000100101110 = some (.op8XYE 1 2) := by decide

theorem test_decode_xyn : decodeWord 0b1101000100100101 = some (.opDXYN 1 2 5) := by decide

theorem test_decode_xff_keys_timers :
    decodeWord 0b1110001110011110 = some (.opEX9E 3) ∧
    decodeWord 0b1110001110100001 = some (.opEXA1 3) ∧
    decodeWord 0b1111001100000111 = some (.opFX07 3) ∧
    decodeWord 0b1111001100001010 = some (.opFX0A 3) ∧
    decodeWord 0b1111001100010101 = some (.opFX15 3) ∧
    decodeWord 0b1111001100011000 = some (.opFX18 3) := by decide

theorem test_decode_xff_index :
    decodeWord 0b1111001100011110 = some (.opFX1E 3) ∧
    decodeWord 0b1111001100101001 = some (.opFX29 3) ∧
    decodeWord 0b1111001100110011 = some (.opFX33 3) ∧
    decodeWord 0b1111001101010101 = some (.opFX55 3) ∧
    decodeWord 0b1111001101100101 = some (.opFX65 3) := by decide

/-- Vectors B2.1 to B2.9: near misses of every family are unknown. -/
theorem test_decode_unknown :
    ([0x0000, 0x0123, 0x00E1, 0x01E0, 0x5121, 0x912F, 0x8128, 0x812D, 0x812F, 0xE19F, 0xE1A0,
      0xF100, 0xF11F, 0xF185, 0xFFFF] : List Word).all (fun w => decodeWord w == none) = true := by
  decide

theorem test_decode_bytes_big_endian :
    decode [0x81, 0x24, 0x99] = .ok (.op8XY4 1 2, [0x99]) := by decide

theorem test_decode_rejects_by_name :
    decode [0x51, 0x21] = .error (.unknownOpcode 0x5121) ∧ decode [0x00] = .error (.truncated 1) := by
  decide

/-! ## Single Steps -/

/-- Reset state with the given registers, all keys up and RND = 0 in the next Step. -/
def start (vs : List (Reg × Byte)) (i : Word := 0) : State :=
  vs.foldl (fun s p => s.setV p.1 p.2)
    { State.reset with i := i, inputs := [⟨Vector.replicate 16 false, 0, false, 0, []⟩] }

/-- The next Step sees these keys down and this random byte. -/
def seeing (s : State) (ks : List Reg) (rnd : Byte) : State :=
  { s with inputs := [⟨Vector.ofFn fun k => ks.contains k, rnd, false, 0, []⟩] }

/-- The state after one Step that runs the word `w`. -/
def run (s : State) (w : Nat) : State :=
  match step (s.withFetchWord 16 w) with
  | .next t => t
  | .fault _ => s
  | .refused _ => s

/-- Bytes of memory from an address. -/
def bytesAt (s : State) (a n : Nat) : List Byte := (List.range n).map fun k => s.readByte (a + k)

/-- Vector B1.1. -/
theorem test_1NNN : (run (start []) 0x1ABC).pc = 0x0ABC := by decide

/-- Vector B1.5. -/
theorem test_2NNN : let t := run (start []) 0x2ABC
    t.stack[0] = 0x0200 ∧ t.sp = 1 ∧ t.pc = 0x0ABC := by decide

/-- Vector B1.6. -/
theorem test_2NNN_overflow : let t := run { start [] with sp := 16, dt := 5 } 0x2ABC
    t.fault = .stackOverflow ∧ t.sp = 16 ∧ t.pc = 0x0200 ∧ t.dt = 5 := by decide

/-- Vector B1.7. -/
theorem test_00EE :
    let t := run { start [] with sp := 1, stack := (Vector.replicate 16 0).set 0 0x0204 } 0x00EE
    t.sp = 0 ∧ t.pc = 0x0206 ∧ t.stack[0] = 0x0204 := by decide

/-- Vectors B1.8 and B7.14. -/
theorem test_00EE_underflow : let t := run { start [] with dt := 5 } 0x00EE
    t.fault = .stackUnderflow ∧ t.pc = 0x0200 ∧ t.dt = 5 := by decide

/-- Vector B1.12. -/
theorem test_BNNN : (run (start [(0, 0xFF)]) 0xBFFF).pc = 0x10FE := by decide

/-- Vectors B1.13 and B1.14. -/
theorem test_3XNN :
    (run (start [(10, 0x42)]) 0x3A42).pc = 0x0204 ∧ (run (start [(10, 0x43)]) 0x3A42).pc = 0x0202 := by
  decide

/-- Vectors B1.15 and B1.16. -/
theorem test_4XNN :
    (run (start [(10, 0x42)]) 0x4A42).pc = 0x0202 ∧ (run (start [(10, 0x43)]) 0x4A42).pc = 0x0204 := by
  decide

/-- Vectors B1.17 and B1.18. -/
theorem test_5XY0 :
    (run (start [(1, 7), (2, 7)]) 0x5120).pc = 0x0204 ∧
    (run (start [(1, 7), (2, 8)]) 0x5120).pc = 0x0202 := by decide

/-- Vectors B1.20 and B1.21. -/
theorem test_9XY0 :
    (run (start [(1, 7), (2, 7)]) 0x9120).pc = 0x0202 ∧
    (run (start [(1, 7), (2, 8)]) 0x9120).pc = 0x0204 := by decide

/-- Vector B2.10: the report, and the TimerTick all the same. -/
theorem test_unknown_opcode : let t := run { start [] with dt := 3 } 0xFFFF
    t.unknownOp = some 0xFFFF ∧ t.pc = 0x0202 ∧ t.dt = 2 ∧ t.fault = .none := by decide

/-- Vectors B2.11 and B2.12: the last address below the range, and the last of memory. -/
theorem test_pc_fault_edges :
    fetchable 0x01FE = false ∧ fetchable 0x0200 = true ∧ fetchable 0x0FFE = true ∧
    fetchable 0x0FFF = false ∧ fetchable 0x1000 = false ∧ fetchable 0x0201 = false := by decide

/-- Vector B3.1. -/
theorem test_6XNN : (run (start []) 0x6A7F).getV 10 = 0x7F := by decide

/-- Vector B3.3: wraps, and VF is not written. -/
theorem test_7XNN : let t := run (start [(0, 0xFF), (15, 0x33)]) 0x7001
    t.getV 0 = 0 ∧ t.getV 15 = 0x33 := by decide

/-- Vector B3.6. -/
theorem test_8XY0 : let t := run (start [(1, 0x11), (2, 0x22)]) 0x8120
    t.getV 1 = 0x22 ∧ t.getV 2 = 0x22 := by decide

/-- Vector B3.11. -/
theorem test_8XY1 : let t := run (start [(1, 0x0C), (2, 0x03), (15, 1)]) 0x8121
    t.getV 1 = 0x0F ∧ t.getV 15 = 1 := by decide

/-- Vector B3.8. -/
theorem test_8XY2 : (run (start [(1, 0xF0), (2, 0x3C)]) 0x8122).getV 1 = 0x30 := by decide

/-- Vector B3.9. -/
theorem test_8XY3 : (run (start [(1, 0xF0), (2, 0x3C)]) 0x8123).getV 1 = 0xCC := by decide

/-- Vector B3.12. -/
theorem test_8XY4 : let t := run (start [(0, 0xFF), (1, 1)]) 0x8014
    t.getV 0 = 0 ∧ t.getV 15 = 1 := by decide

/-- Vectors B3.18 and B3.19: VF as X, and as Y. -/
theorem test_8XY4_VF : (run (start [(15, 0x10), (1, 2)]) 0x8F14).getV 15 = 0 ∧
    (run (start [(1, 0x10), (15, 0xF5)]) 0x81F4).getV 1 = 5 := by decide

/-- Vectors B3.21 and B3.22. -/
theorem test_8XY5 : let e := run (start [(0, 5), (1, 5)]) 0x8015
    let b := run (start [(0, 5), (1, 6)]) 0x8015
    e.getV 0 = 0 ∧ e.getV 15 = 1 ∧ b.getV 0 = 0xFF ∧ b.getV 15 = 0 := by decide

/-- Vector B3.32: V1 is not used. -/
theorem test_8XY6 : let t := run (start [(0, 0x01), (1, 0x77)]) 0x8016
    t.getV 0 = 0 ∧ t.getV 15 = 1 ∧ t.getV 1 = 0x77 := by decide

/-- Vector B3.37: the flag is written last. -/
theorem test_8XY6_VF : (run (start [(15, 2)]) 0x8F06).getV 15 = 0 := by decide

/-- Vectors B3.29 and B3.30. -/
theorem test_8XY7 : let b := run (start [(0, 6), (1, 5)]) 0x8017
    let n := run (start [(0, 1), (1, 0xFF)]) 0x8017
    b.getV 0 = 0xFF ∧ b.getV 15 = 0 ∧ n.getV 0 = 0xFE ∧ n.getV 15 = 1 := by decide

/-- Vector B3.38. -/
theorem test_8XYE : let t := run (start [(0, 0x80), (1, 0x77)]) 0x801E
    t.getV 0 = 0 ∧ t.getV 15 = 1 ∧ t.getV 1 = 0x77 := by decide

/-- Vector B3.42. -/
theorem test_8XYE_VF : (run (start [(15, 0x41)]) 0x8F1E).getV 15 = 0 := by decide

/-- Vector B3.44. -/
theorem test_CXNN : (run (seeing (start []) [] 0xA7) 0xC00F).getV 0 = 0x07 := by decide

/-- Vector B4.1. -/
theorem test_ANNN : (run (start []) 0xAFFF).i = 0xFFF := by decide

/-- Vectors B4.5 and B4.6. -/
theorem test_FX1E : let t := run (start [(0, 0xFE)] 0xF01) 0xF01E
    let o := run (start [(0, 0xFF)] 0xF01) 0xF01E
    t.i = 0xFFF ∧ t.getV 15 = 0 ∧ o.i = 0 ∧ o.getV 15 = 1 := by decide

/-- Vector B4.7: VF is read as the addend and then written. -/
theorem test_FX1E_VF : let t := run (start [(15, 3)] 0xFFE) 0xFF1E
    t.i = 1 ∧ t.getV 15 = 1 := by decide

/-- Vectors B4.12 and B4.14. -/
theorem test_FX29 :
    (run (start [(0, 0x0F)]) 0xF029).i = 0x04B ∧ (run (start [(0, 0xFF)]) 0xF029).i = 0x4FB := by decide

/-- Vector B4.20: the units digit wraps onto the font. -/
theorem test_FX33 : let t := run (start [(0, 0xEA)] 0xFFE) 0xF033
    bytesAt t 0xFFE 3 = [2, 3, 4] ∧ t.i = 0xFFE := by decide

/-- Vector B4.23. -/
theorem test_FX55 : let t := run (start [(0, 1), (1, 2), (2, 3)] 0xFFE) 0xF255
    bytesAt t 0xFFE 4 = [1, 2, 3, 0x90] ∧ t.i = 0xFFE := by decide

/-- Vector B4.25: I moves on under `LS_INCREMENT_I`. -/
theorem test_FX55_increment :
    let s := start [(0, 0x10), (1, 0x11), (2, 0x12), (3, 0x13)] 0x400
    let t := run { s with cfg := { s.cfg with lsIncrementI := true } } 0xF355
    bytesAt t 0x400 5 = [0x10, 0x11, 0x12, 0x13, 0] ∧ t.i = 0x404 := by decide

/-- Vector B4.27: the font, and V5 is not loaded. -/
theorem test_FX65 : let t := run (start [(5, 0x77)]) 0xF465
    (List.finRange 6).map (fun k : Fin 6 => t.getV (Fin.castLE (by omega) k)) =
      [0xF0, 0x90, 0x90, 0x90, 0xF0, 0x77] := by decide

/-- Vector B4.30: the instruction's own bytes. -/
theorem test_FX65_own_bytes : let t := run (start [] 0x200) 0xF165
    t.getV 0 = 0xF1 ∧ t.getV 1 = 0x65 := by decide

/-- Vector B5.2: DIRTY is set on a blank screen too. -/
theorem test_00E0 :
    let t := run { start [] with fb := (Vector.replicate 32 0).set 31 (BitVec.twoPow 64 63) } 0x00E0
    t.fb = Vector.replicate 32 0 ∧ t.dirty = true ∧ (run (start []) 0x00E0).dirty = true := by decide

/-- Vectors B5.9 and B5.12: both coordinates wrap, and one collision is enough. -/
theorem test_DXYN :
    let t := run ((start [(0, 0xFF), (1, 0xFF)] 0x300).writeByte 0x300 0x80) 0xD011
    let c := run ({ start [] 0x300 with fb := (Vector.replicate 32 0).set 0 1 }.writeByte 0x300 0xC0) 0xD011
    t.fb = (Vector.replicate 32 0).set 31 (BitVec.twoPow 64 63) ∧ t.getV 15 = 0 ∧
    c.fb = (Vector.replicate 32 0).set 0 2 ∧ c.getV 15 = 1 := by decide

/-- Vector B5.15: VF is read as the column and then written. -/
theorem test_DXYN_VF :
    let t := run ((start [(15, 5), (1, 2)] 0x300).writeByte 0x300 0x80) 0xDF11
    t.fb = (Vector.replicate 32 0).set 2 32 ∧ t.getV 15 = 0 ∧ t.dirty = true := by decide

/-- Vectors B6.1 and B6.5: a key down, and a key number above 15 under `mask`. -/
theorem test_EX9E : (run (seeing (start [(0, 5)]) [5] 0) 0xE09E).pc = 0x0204 ∧
    (run (seeing (start [(0, 0x15)]) [5] 0) 0xE09E).pc = 0x0204 := by decide

/-- Vectors B6.3 and B6.4. -/
theorem test_EXA1 : (run (seeing (start [(0, 5)]) [5] 0) 0xE0A1).pc = 0x0202 ∧
    (run (seeing (start [(0, 5)]) [] 0) 0xE0A1).pc = 0x0204 := by decide

/-- Vector B6.7: no key, PC stays, and the timer counts on. -/
theorem test_FX0A_waits : let t := run { start [(3, 0x55)] with dt := 2 } 0xF30A
    t.pc = 0x0200 ∧ t.getV 3 = 0x55 ∧ t.dt = 1 := by decide

/-- Vector B6.10: two keys down, under `lowest` and under `highest`. -/
theorem test_FX0A_priority : let s := seeing (start []) [3, 9] 0
    (run s 0xF30A).getV 3 = 3 ∧
    (run { s with cfg := { s.cfg with keyPriority := .highest } } 0xF30A).getV 3 = 9 := by decide

/-- Vector B7.5: the read comes before the tick. -/
theorem test_FX07 : let t := run { start [] with dt := 7 } 0xF107
    t.getV 1 = 7 ∧ t.dt = 6 := by decide

/-- Vectors B7.1 and B7.4. -/
theorem test_FX15 : let s := start [(0, 5)]
    (run s 0xF015).dt = 4 ∧
    (run { s with cfg := { s.cfg with timerMode := .externalTick } } 0xF015).dt = 5 := by decide

/-- Vectors B7.7 and B7.9. -/
theorem test_FX18 : let a := run (start [(0, 2)]) 0xF018
    let b := run (start [(0, 1)]) 0xF018
    a.st = 1 ∧ a.toneReq = false ∧ b.st = 0 ∧ b.toneReq = true := by decide

/-- R155, R169: under `external_tick` the ticks come from the host, here two after the Step. -/
theorem test_external_ticks :
    let s := { start [(0, 5)] with
      cfg := { Config.reference with timerMode := .externalTick }
      inputs := [⟨Vector.replicate 16 false, 0, false, 0, [.timerTick, .timerTick]⟩] }
    (run s 0xF015).dt = 3 := by decide

/-- R154, R156: each tick has its own output, and a later tick does not keep the request of an earlier one. -/
theorem test_tone_is_one_shot :
    let s := { start [(0, 1)] with
      cfg := { Config.reference with timerMode := .externalTick }
      inputs := [⟨Vector.replicate 16 false, 0, false, 0, [.timerTick, .timerTick]⟩] }
    (run s 0xF018).tones = [true, false] ∧ (run s 0xF018).toneReq = false := by decide

/-- R149, R165, R167: only Reset leaves a halted machine; the loaded image is copied verbatim. -/
theorem test_boot_after_fault :
    let s := { start [(0, 5)] with
      fault := .pcFault
      inputs := [⟨Vector.replicate 16 false, 0, false, 0, [.boot [0x60, 0x6A, 0x61]]⟩] }
    (match step s with
      | .next t => (t.fault, t.getV 0, t.pc, bytesAt t 0x200 4)
      | .fault _ => (.none, 1, 1, [])
      | .refused _ => (.none, 1, 1, [])) = (.none, 0, 0x0200, [0x60, 0x6A, 0x61, 0]) := by decide

/-- Every row of the opcode map is decoded and runs as the first instruction after Reset. -/
theorem test_first_instruction_runs : opcodeMap.all (fun r =>
    (decodeTableWord 16 r.value.toNat).isSome &&
    (match step (State.reset.withFetchWord 16 r.value.toNat) with
      | .next _ => true
      | .fault _ => false
      | .refused _ => false)) = true := by decide

/-! ## Witnesses: states and operands that meet the hypotheses of the obligations -/

/-- A state about to run the word `w` at 0x200, all keys up. -/
def ready (w : Nat) : State := (start []).withFetchWord 16 w

/-- The same at the last address a Step can fetch from. -/
def readyAtEnd (w : Nat) : State := { start [] with pc := 0x0FFE }.withFetchWord 16 w

/-- The same machine under `TIMER_MODE = external_tick`. -/
def external (s : State) : State := { s with cfg := { s.cfg with timerMode := .externalTick } }

/-- The same machine under `LS_INCREMENT_I = true`. -/
def incrementing (s : State) : State := { s with cfg := { s.cfg with lsIncrementI := true } }

/-- The state after one Step. -/
def after (s : State) : State :=
  match step s with
  | .next t => t
  | .fault _ => s
  | .refused _ => s

/-- The Step answers a next state. -/
def answers (s : State) : Bool :=
  match step s with
  | .next _ => true
  | .fault _ => false
  | .refused _ => false

theorem step_eq_after {s : State} (h : answers s = true) : step s = .next (after s) := by
  unfold answers at h
  unfold after
  split at h <;> simp_all

/-- DecodeOfEncode: the least and the greatest operands of each shape. -/
theorem witness_wellFormed :
    ([.op00E0, .op1NNN 0, .opBNNN 0xFFF, .op3XNN 0 0, .op7XNN 15 255, .op8XY4 0 15, .opDXYN 15 0 15,
      .opDXYN 0 15 0, .opFX65 15] : List Instr).all Instr.wellFormed = true := by decide

/-- EncodeOfDecode and DecodeIsExactMatch: words that decode, and the row each matches. -/
theorem witness_word_matches_row :
    decodeWord 0xDFFF = some (.opDXYN 15 15 15) ∧ (Instr.opDXYN 15 15 15).row ∈ opcodeMap ∧
    (0xDFFF : Word) &&& (Instr.opDXYN 15 15 15).row.mask = (Instr.opDXYN 15 15 15).row.value ∧
    (0x00E0 : Word) &&& Instr.op00E0.row.mask = Instr.op00E0.row.value := by decide

/-- UnknownWordsAreTheListed: words next to defined ones in each clause of R53. -/
theorem witness_unknown_words :
    ([0x0000, 0x00DF, 0x00E1, 0x00ED, 0x00EF, 0x0FFF, 0x5001, 0x9FFF, 0x8008, 0x800D, 0x800F, 0xE09D,
      0xE09F, 0xE0A0, 0xE0A2, 0xF006, 0xF008, 0xF066, 0xFFFF] : List Word).all
      (fun w => decodeWord w == none) = true := by decide

/-- StepRunsDecodedInstruction, at both ends of the range of PC. -/
theorem witness_runsNext : (ready 0x1ABC).runsNext (.op1NNN 0xABC) ∧
    (readyAtEnd 0x6A7F).runsNext (.op6XNN 10 0x7F) :=
  ⟨⟨rfl, by decide, by decide⟩, rfl, by decide, by decide⟩

/-- StepEndsWithTick: each of its three cases. -/
theorem witness_step_end :
    ((start []).hostIdle ∧ (start []).fault = .none ∧ (start []).cfg.timerMode = .perStep) ∧
    (((start []).raise .pcFault).hostIdle ∧ ((start []).raise .pcFault).fault ≠ .none) ∧
    ((external (start [])).hostIdle ∧ (external (start [])).cfg.timerMode = .externalTick) :=
  ⟨⟨rfl, rfl, rfl⟩, ⟨rfl, by decide⟩, rfl, rfl⟩

/-- UnknownOpcodePassedOver, in both timer modes and at both ends of the range of PC. -/
theorem witness_unknown_next (s : State) (h : s ∈ [ready 0x0000, readyAtEnd 0xFFFF, external (ready 0x5121)]) :
    s.running ∧ fetchable s.pc = true ∧ decodeWord (s.readWord s.pc.toNat) = none ∧ s.hostIdle := by
  simp only [List.mem_cons, List.not_mem_nil, or_false] at h
  rcases h with rfl | rfl | rfl <;> exact ⟨rfl, by decide, by decide, rfl⟩

/-- BadPcFaults: an odd PC, the last even one below the range and the first above it. -/
theorem witness_bad_pc :
    { start [] with pc := 0x0201 }.running ∧ { start [] with pc := 0x0201 }.hostIdle ∧
    (0x0201 : Word).toNat % 2 = 1 ∧ (0x01FE : Word).toNat < 0x200 ∧ 0xFFE < (0x1000 : Word).toNat :=
  ⟨rfl, rfl, by decide, by decide, by decide⟩

/-- FaultingStepIsPrecise: a Step that raises a fault. -/
theorem witness_faulting_step : ∃ t, step { start [] with pc := 0x0201 } = .next t ∧
    { start [] with pc := 0x0201 }.running ∧ { start [] with pc := 0x0201 }.hostIdle ∧ t.fault ≠ .none :=
  ⟨_, step_eq_after (by decide), rfl, rfl, by decide⟩

/-- FaultsAreTheThree: a 2NNN with 16 and with 15 entries, and a 00EE with none and with one. -/
theorem witness_stack_edges :
    { ready 0x2ABC with sp := 16 }.runsNext (.op2NNN 0xABC) ∧
    { ready 0x2ABC with sp := 15 }.runsNext (.op2NNN 0xABC) ∧
    { ready 0x00EE with sp := 0 }.runsNext .op00EE ∧ { ready 0x00EE with sp := 1 }.runsNext .op00EE ∧
    (ready 0x2ABC).hostIdle ∧ answers { ready 0x2ABC with sp := 16 } = true :=
  ⟨⟨rfl, by decide, by decide⟩, ⟨rfl, by decide, by decide⟩, ⟨rfl, by decide, by decide⟩,
    ⟨rfl, by decide, by decide⟩, rfl, by decide⟩

/-- HaltedMachineStays and FaultLatchedUntilReset: a halted machine beside which the host moves. -/
theorem witness_halted : let s := { (start []).raise .stackOverflow with
      inputs := [⟨Vector.replicate 16 false, 0, false, 0, [.timerTick, .clearDirty]⟩] }
    ((start []).raise .stackOverflow).hostIdle ∧ s.fault ≠ .none ∧ step s = .next (after s) ∧
      ∀ m ∈ s.input.after, m = .timerTick ∨ m = .clearDirty :=
  ⟨rfl, by decide, step_eq_after (by decide), by decide⟩

/-- CallPushesItsAddress, ReturnPopsAndAddsTwo, ReturnUndoesCall: the ends of the range of SP. -/
theorem witness_stack : { start [] with sp := 15 }.sp.val < 16 ∧ { start [] with sp := 16 }.sp.val = 16 ∧
    0 < { start [] with sp := 1 }.sp.val ∧ (start []).sp.val = 0 ∧
    ∃ t, exec (.op2NNN 0x300) { start [] with sp := 15 } = .next t :=
  ⟨by decide, by decide, by decide, by decide, _, rfl⟩

/-- The invariant, with a stack entry in use (ReturnLandsAfterACall, HostMovesKeepInvariant,
StepKeepsInvariant). -/
theorem witness_invariant : let s := { ready 0x00EE with
      sp := 1, stack := (Vector.replicate 16 0).set 0 0x0FFE, i := 0xFFF }
    s.Inv ∧ 0 < s.sp.val ∧ step s = .next (after s) ∧ ∃ t, exec .op00EE s = .next t := by
  refine ⟨⟨by decide, by decide, fun k hk => ?_⟩, by decide, step_eq_after (by decide), _, rfl⟩
  obtain rfl : k = 0 := by simpa using hk
  exact (by decide : fetchable 0x0FFE = true)

/-- PcPolicyOfEveryInstruction: FX0A with a key down and with none, and the ends of the range of PC. -/
theorem witness_pc_policy :
    (∃ k : Fin 16, (seeing (start []) [15] 0).input.key[k] = true) ∧
    (∀ k : Fin 16, (start []).input.key[k] = false) ∧
    fetchable 0x0200 = true ∧ fetchable 0x0FFE = true := by decide

/-- SelfJumpStays. -/
theorem witness_self_jump : (ready 0x1200).atSelfJump ∧ (ready 0x1200).hostIdle :=
  ⟨⟨rfl, by decide, by decide⟩, rfl⟩

/-- ImmediateLoadAndAdd to FlagReplacesResultInVF: the flag forms with a destination that is not VF, and
sums and differences on both sides of each flag. -/
theorem witness_flag_sides : (0 : Reg) ≠ 15 ∧ 255 < 0xFF + 1 ∧ ¬ 255 < 0xFE + 1 ∧
    (start [(1, 5)]).getV 1 = 5 ∧ ¬ 0xFFF < 0xF01 + 0xFE ∧ 0xFFF < 0xF01 + 0xFF := by decide

/-- BlockStore and BlockLoad, in both settings of `LS_INCREMENT_I`, with registers up to X and above. -/
theorem witness_block : (start []).cfg.lsIncrementI = false ∧
    (incrementing (start [])).cfg.lsIncrementI = true ∧ (14 : Reg) ≤ 14 ∧ (14 : Reg) < 15 := by decide

/-- BlockStoreLoadRoundTrip: under `LS_INCREMENT_I`, with I set back, at the top of memory. -/
theorem witness_round_trip : let s := incrementing (start [(0, 1), (1, 2), (2, 3)] 0xFFE)
    ∃ t u, exec (.opFX55 2) s = .next t ∧ KeepsMemory t u ∧ u.i = s.i :=
  ⟨_, State.setI _ 0xFFE, rfl, fun _ => rfl, by decide⟩

/-- StoreSeenByNextFetch, at the last address a Step can fetch from. -/
theorem witness_self_modifying : let s := { start [] 0xFFE with pc := 0x0FFC }
    s.running ∧ 1 ≤ (1 : Reg).val ∧ s.i = s.pc + 2 ∧ fetchable (s.pc + 2) = true :=
  ⟨rfl, by decide, by decide, by decide⟩

/-- SpriteIsXored: the bottom right corner is covered, and then the top left one by wrapping; a cell
beside them is not covered. -/
theorem witness_sprite : let s := ((start [(0, 63), (1, 31)] 0x300).writeByte 0x300 0x80).writeByte 0x301 0x40
    s.spriteCovers 0 1 2 31 63 ∧ s.spriteCovers 0 1 2 0 0 ∧ ¬ s.spriteCovers 0 1 2 31 62 := by
  refine ⟨⟨0, by decide, 0, by decide, by decide⟩, ⟨1, by decide, 1, by decide, by decide⟩, ?_⟩
  unfold State.spriteCovers
  decide

/-- SpriteIsXored: a lit cell under the sprite, and a blank screen. -/
theorem witness_collision : let s := (start [] 0x300).writeByte 0x300 0x80
    (∃ cy cx, State.spriteCovers { s with fb := (Vector.replicate 32 0).set 0 1 } 0 1 1 cy cx ∧
      Framebuffer.cell ((Vector.replicate 32 0).set 0 1) cy cx = true) ∧
    ¬ ∃ cy cx, s.spriteCovers 0 1 1 cy cx ∧ s.fb.cell cy cx = true := by
  refine ⟨⟨0, 0, ⟨0, by decide, 0, by decide, by decide⟩, by decide⟩, ?_⟩
  rintro ⟨cy, cx, -, h⟩
  have : ∀ cy cx, Framebuffer.cell (Vector.replicate 32 0) cy cx = false := by
    simp [Framebuffer.cell]
  exact absurd (h.symm.trans (this cy cx)) (by decide)

/-- DrawingTwiceRestores: the coordinates are in V0 and V1, which a draw does not write. -/
theorem witness_draw_twice : let s := (start [(0, 63), (1, 31)] 0x300).writeByte 0x300 0xFF
    ∃ t, exec (.opDXYN 0 1 1) s = .next t ∧ t.getV 0 = s.getV 0 ∧ t.getV 1 = s.getV 1 :=
  ⟨_, rfl, rfl, rfl⟩

/-- SkipsOnKey, first premise: a key number above 15 under `draw`. -/
theorem witness_key_drawn :
    let s := seeing { start [(0, 16)] with cfg := { Config.reference with keyIndexPolicy := .draw } } [0] 0
    s.cfg.keyIndexPolicy = .draw ∧ 15 < (s.getV 0).toNat ∧ s.input.keyDraw = false := by decide

/-- SkipsOnKey, second premise: a key number above 15 under `mask`, and key number 15. -/
theorem witness_key_operand : let s := seeing (start [(0, 31), (1, 15)]) [15] 0
    s.cfg.keyIndexPolicy = .mask ∧ s.input.key[(s.getV 0).toNat % 16]'(by decide) = true ∧
    (s.getV 1).toNat ≤ 15 := by decide

/-- KeyWait: a key down under each `KEY_PRIORITY`, under `any` with the free key down. -/
theorem witness_key_wait (p : KeyPriority) :
    let s := { seeing (start []) [0, 15] 0 with cfg := { Config.reference with keyPriority := p } }
    (∃ k : Fin 16, s.input.key[k] = true) ∧ s.cfg.keyPriority = p ∧ s.input.key[s.input.pick] = true := by
  cases p <;> decide

/-- TimerTickDecrements, DelayTimerCountsDown, OneToneAtTheVthTick: halted and running, and each side of
zero. -/
theorem witness_timers : { start [] with fault := .pcFault }.fault ≠ .none ∧
    { start [] with dt := 255, st := 1 }.running ∧ ({ start [] with dt := 255, st := 1 }.dt ≠ 0) ∧
    (start []).dt = 0 ∧ ∃ t, exec (.opFX18 0) (start [(0, 255)]) = .next t ∧ (1 : Nat) ≤ 255 :=
  ⟨by decide, rfl, by decide, by decide, _, rfl, by decide⟩

/-- ResetValues: both states, and addresses on both sides of the end of the font. -/
theorem witness_reset : State.reset ∈ [(start []).hostReset, State.reset] ∧
    (start []).hostReset ∈ [(start []).hostReset, State.reset] ∧ 79 < 80 ∧ 80 ≤ 80 ∧ 4095 < 4096 := by
  simp

/-- LoadProgramCopies: the longest image that fits and the shortest that does not. -/
theorem witness_image_length : (List.replicate 3584 (0 : Byte)).length ≤ 3584 ∧
    3584 < (List.replicate 3585 (0 : Byte)).length ∧ (0x1FF : Nat) < 0x200 ∧ 0x200 + 3583 ≤ 4095 := by
  rw [List.length_replicate, List.length_replicate]
  decide

/-- HostMoves: both timer modes. -/
theorem witness_timer_modes : (start []).cfg.timerMode = .perStep ∧
    (external (start [])).cfg.timerMode = .externalTick := by decide

/-- StepAlwaysAnswers: a Step that runs an instruction. -/
theorem witness_step_answers : step (ready 0x6A7F) = .next (after (ready 0x6A7F)) :=
  step_eq_after (by decide)

/-- RegistersAndFlagWritten, MemoryWrittenOnlyByStores, OtherStateWrittenOnlyByItsWriters: instructions
that answer, a register and an address that each leaves alone. -/
theorem witness_frames : (∃ t, exec (.op8XY4 1 2) (start []) = .next t) ∧ (3 : Reg) ∉ destRegs (.op8XY4 1 2) ∧
    flagWriter (.op8XY4 1 2) = true ∧ (∃ t, exec (.opFX55 1) (start [] 0xFFF) = .next t) ∧
    addr12 1 ∉ storedAddrs (start [] 0xFFF) (.opFX55 1) ∧
    addr12 0 ∈ storedAddrs (start [] 0xFFF) (.opFX55 1) :=
  ⟨⟨_, rfl⟩, by decide, rfl, ⟨_, rfl⟩, by decide, by decide⟩

/-- RndReadOnlyByRandom and KeysReadOnlyByKeyInstructions: a word of neither class. -/
theorem witness_other_word :
    (∀ x nn, decodeWord ((ready 0x6A7F).readWord (ready 0x6A7F).pc.toNat) ≠ some (.opCXNN x nn)) ∧
    ∀ x, decodeWord ((ready 0x6A7F).readWord (ready 0x6A7F).pc.toNat) ≠ some (.opEX9E x) ∧
      decodeWord ((ready 0x6A7F).readWord (ready 0x6A7F).pc.toNat) ≠ some (.opEXA1 x) ∧
      decodeWord ((ready 0x6A7F).readWord (ready 0x6A7F).pc.toNat) ≠ some (.opFX0A x) := by
  have h : decodeWord ((ready 0x6A7F).readWord (ready 0x6A7F).pc.toNat) = some (.op6XNN 10 0x7F) := by
    decide
  simp [h]

end Sys2Proof.Tests
end

section
/-! Reading and writing memory (R34): the rules that settle the family 20_memory.md. -/
namespace Sys2Proof.Machine

@[simp] theorem addr12_add_4096 (n : Nat) : addr12 (n + 4096) = addr12 n := Nat.add_mod_right n 4096

/-- Addresses wrap at the end of memory (R33). -/
@[simp] theorem State.readByte_add_4096 (s : State) (a : Nat) : s.readByte (a + 4096) = s.readByte a :=
  s.readByte_congr (addr12_add_4096 a)

theorem State.readWord_toNat (s : State) (a : Nat) :
    (s.readWord a).toNat = (s.readByte a).toNat * 256 + (s.readByte (a + 1)).toNat :=
  bigEndian_toNat _ _

/-- Settles O39: MemWrite then MemRead, the wrap of addresses, and the byte order of a two-byte read
are one rule of the state's memory each. -/
theorem memoryReadAfterWrite : Obligations.MemoryReadAfterWrite := by
  intro s a b x
  exact ⟨s.readByte_writeByte a b x, s.readByte_add_4096 a, s.readWord_toNat a⟩

end Sys2Proof.Machine
end

section
/-! Jumps, calls, returns and skips (R57, R65 to R73): the rules that settle the family
40_flow_and_skips.md. -/
namespace Sys2Proof.Machine

/-! ## What a write to PC and a taken fault leave unchanged -/

theorem State.setPc_keepsAllButPc (s : State) (w : Word) : KeepsAllButPc s (s.setPc w) := by
  simp [KeepsAllButPc, KeepsRegsBut, KeepsBeyondRegs, KeepsMemory, KeepsStack, KeepsTimers, KeepsScreen,
    KeepsRest]

theorem State.raise_keepsCore (s : State) (k : FaultCode) : KeepsCore s (s.raise k) := by
  simp [KeepsCore, KeepsStack, KeepsTimers, KeepsScreen]

/-- Everything but PC, SP and the stack entries: the frame of a call and of a return. -/
def KeepsAllButPcAndStack (s t : State) : Prop :=
  KeepsRegsBut [] s t ∧ t.i = s.i ∧ KeepsMemory s t ∧ KeepsTimers s t ∧ KeepsScreen s t ∧ KeepsRest s t

theorem State.keepsAllButPcAndStack (s : State) (n : Fin 17) (l : Vector Word 16) (w : Word) :
    KeepsAllButPcAndStack s { s with sp := n, stack := l, pc := w } :=
  ⟨fun _ _ => rfl, rfl, fun _ => rfl, ⟨rfl, rfl⟩, ⟨rfl, rfl⟩, rfl, rfl, rfl, rfl, rfl, rfl⟩

/-! ## Jump -/

/-- Widening NNN to 16 bits loses nothing (R47). -/
@[simp] theorem targetNNN_toNat (nnn : Addr) : (targetNNN nnn).toNat = nnn.toNat :=
  BitVec.toNat_setWidth_of_le (by decide)

theorem exec_op1NNN (nnn : Addr) (s : State) :
    exec (.op1NNN nnn) s = .next (s.setPc (targetNNN nnn)) := rfl

/-- Settles O15: 1NNN is a write of the widened NNN to PC. -/
theorem jumpSetsPc : Obligations.JumpSetsPc := by
  intro s nnn
  exact ⟨_, exec_op1NNN nnn s, targetNNN_toNat nnn, s.setPc_keepsAllButPc _⟩

/-! ## Call and return -/

theorem exec_op2NNN_of_room (nnn : Addr) (s : State) (h : s.sp.val < 16) :
    exec (.op2NNN nnn) s = .next { s with
      sp := ⟨s.sp.val + 1, by omega⟩, stack := s.stack.set s.sp.val s.pc, pc := targetNNN nnn } := by
  change exec2NNN nnn s = _
  rw [exec2NNN, s.push_of_room _ h]
  rfl

theorem exec_op2NNN_of_full (nnn : Addr) (s : State) (h : s.sp.val = 16) :
    exec (.op2NNN nnn) s = .next (s.raise .stackOverflow) := by
  change exec2NNN nnn s = _
  rw [exec2NNN, s.push_of_full _ h]

theorem exec_op00EE_of_used (s : State) (h : 0 < s.sp.val) :
    exec .op00EE s = .next { s with
      sp := ⟨s.sp.val - 1, by omega⟩, pc := s.stack[s.sp.val - 1]'(by omega) + 2 } := by
  change exec00EE s = _
  rw [exec00EE, s.pop_of_used h]
  rfl

theorem exec_op00EE_of_empty (s : State) (h : s.sp.val = 0) :
    exec .op00EE s = .next (s.raise .stackUnderflow) := by
  change exec00EE s = _
  rw [exec00EE, s.pop_of_empty h]

/-- Settles O17: with room the call writes PC, SP and one entry; with none it only sets the latch. -/
theorem callPushesItsAddress : Obligations.CallPushesItsAddress := by
  intro s nnn
  constructor
  · intro h
    exact ⟨_, exec_op2NNN_of_room nnn s h, rfl, rfl, targetNNN_toNat nnn, s.keepsAllButPcAndStack _ _ _⟩
  · intro h
    exact ⟨_, exec_op2NNN_of_full nnn s h, rfl, s.raise_keepsCore _⟩

/-- Settles O18: with an entry in use the return writes PC and SP; with none it only sets the latch. -/
theorem returnPopsAndAddsTwo : Obligations.ReturnPopsAndAddsTwo := by
  intro s
  constructor
  · intro h
    exact ⟨_, exec_op00EE_of_used s h, rfl, rfl, rfl, s.keepsAllButPcAndStack _ s.stack _⟩
  · intro h
    exact ⟨_, exec_op00EE_of_empty s h, rfl, s.raise_keepsCore _⟩

/-! ## Skips -/

/-- Every instruction of the policy "skip" (R57): `c` is the condition as the meaning computes it, `p` the
condition as the rule states it. -/
theorem exec_skip {i : Instr} {s : State} {c : Bool} {p : Prop} [Decidable p]
    (he : exec i s = .next (s.skipIf c)) (hc : c = true ↔ p) :
    ∃ t, exec i s = .next t ∧ t.pc = (if p then s.pc + 4 else s.pc + 2) ∧ KeepsAllButPc s t := by
  refine ⟨_, he, ?_, s.setPc_keepsAllButPc _⟩
  simp [hc]

theorem exec_op3XNN (x : Reg) (nn : Byte) (s : State) :
    exec (.op3XNN x nn) s = .next (s.skipIf (s.getV x == nn)) := rfl

theorem exec_op4XNN (x : Reg) (nn : Byte) (s : State) :
    exec (.op4XNN x nn) s = .next (s.skipIf (s.getV x != nn)) := rfl

theorem exec_op5XY0 (x y : Reg) (s : State) :
    exec (.op5XY0 x y) s = .next (s.skipIf (s.getV x == s.getV y)) := rfl

theorem exec_op9XY0 (x y : Reg) (s : State) :
    exec (.op9XY0 x y) s = .next (s.skipIf (s.getV x != s.getV y)) := rfl

/-- Settles O21: both are skips, on V[X] being NN and on its not being NN. -/
theorem skipsOnImmediate : Obligations.SkipsOnImmediate := by
  intro s x nn
  exact ⟨exec_skip (exec_op3XNN x nn s) beq_iff_eq, exec_skip (exec_op4XNN x nn s) bne_iff_ne⟩

/-- Settles O22: both are skips, on V[X] and V[Y] being equal and on their differing. -/
theorem skipsOnRegisters : Obligations.SkipsOnRegisters := by
  intro s x y
  exact ⟨exec_skip (exec_op5XY0 x y s) beq_iff_eq, exec_skip (exec_op9XY0 x y s) bne_iff_ne⟩

end Sys2Proof.Machine
end

section
/-! Register load, arithmetic, logic, shift and random (R80 to R96): the rules that settle the family
41_register_alu.md. -/
namespace Sys2Proof.Machine

/-! ## What a result, and a result with its flag, change -/

/-- The frame of every form that writes general registers and PC alone. -/
theorem State.keepsBeyondRegs (s : State) (v : Vector Byte 16) (w : Word) :
    KeepsBeyondRegs s { s with v := v, pc := w } :=
  ⟨fun _ => rfl, ⟨rfl, rfl⟩, ⟨rfl, rfl⟩, ⟨rfl, rfl⟩, rfl, rfl, rfl, rfl, rfl, rfl⟩

theorem State.result_keepsRegsBut (s : State) (x : Reg) (r : Byte) :
    KeepsRegsBut [x] s (s.result x r) := by
  intro q hq
  have hx : q ≠ x := by simpa using hq
  simp [hx]

theorem State.resultFlag_keepsRegsBut (s : State) (x : Reg) (r f : Byte) :
    KeepsRegsBut [x, 15] s (s.resultFlag x r f) := by
  intro q hq
  have hx : q ≠ x ∧ q ≠ 15 := by simpa using hq
  simp [hx]

theorem completesWith_of_result {i : Instr} {s : State} {x : Reg} {r : Byte} {n : Nat}
    (he : exec i s = .next (s.result x r)) (hr : r.toNat = n) : CompletesWith i s x n :=
  ⟨_, he, by simp [hr], rfl, rfl, s.result_keepsRegsBut x r, s.keepsBeyondRegs _ _⟩

/-- The flag is written after the result, so V[x] is the result only where `x` is not VF (R93). -/
theorem completesWithFlag_of_resultFlag {i : Instr} {s : State} {x : Reg} {r f : Byte} {n m : Nat}
    (he : exec i s = .next (s.resultFlag x r f)) (hr : r.toNat = n) (hf : f.toNat = m) :
    CompletesWithFlag i s x n m :=
  ⟨_, he, by simp [hf], fun hx => by simp [hx, hr], rfl, rfl, s.resultFlag_keepsRegsBut x r f,
    s.keepsBeyondRegs _ _⟩

/-! ## The meanings -/

theorem exec_op6XNN (x : Reg) (nn : Byte) (s : State) :
    exec (.op6XNN x nn) s = .next (s.result x nn) := rfl

theorem exec_op7XNN (x : Reg) (nn : Byte) (s : State) :
    exec (.op7XNN x nn) s = .next (s.result x (s.getV x + nn)) := rfl

theorem exec_op8XY0 (x y : Reg) (s : State) :
    exec (.op8XY0 x y) s = .next (s.result x (s.getV y)) := rfl

theorem exec_op8XY1 (x y : Reg) (s : State) :
    exec (.op8XY1 x y) s = .next (s.result x (s.getV x ||| s.getV y)) := rfl

theorem exec_op8XY2 (x y : Reg) (s : State) :
    exec (.op8XY2 x y) s = .next (s.result x (s.getV x &&& s.getV y)) := rfl

theorem exec_op8XY3 (x y : Reg) (s : State) :
    exec (.op8XY3 x y) s = .next (s.result x (s.getV x ^^^ s.getV y)) := rfl

theorem exec_op8XY4 (x y : Reg) (s : State) :
    exec (.op8XY4 x y) s =
      .next (s.resultFlag x (s.getV x + s.getV y) (carryFlag (s.getV x) (s.getV y))) := rfl

theorem exec_op8XY5 (x y : Reg) (s : State) :
    exec (.op8XY5 x y) s =
      .next (s.resultFlag x (s.getV x - s.getV y) (notBorrowFlag (s.getV x) (s.getV y))) := rfl

theorem exec_op8XY6 (x y : Reg) (s : State) :
    exec (.op8XY6 x y) s =
      .next (s.resultFlag x (s.getV x >>> 1) (shiftedOutRight (s.getV x))) := rfl

theorem exec_op8XY7 (x y : Reg) (s : State) :
    exec (.op8XY7 x y) s =
      .next (s.resultFlag x (s.getV y - s.getV x) (notBorrowFlag (s.getV y) (s.getV x))) := rfl

theorem exec_op8XYE (x y : Reg) (s : State) :
    exec (.op8XYE x y) s =
      .next (s.resultFlag x (s.getV x <<< 1) (shiftedOutLeft (s.getV x))) := rfl

theorem exec_opCXNN (x : Reg) (nn : Byte) (s : State) :
    exec (.opCXNN x nn) s = .next (s.result x (s.input.rnd &&& nn)) := rfl

/-! ## The forms without a flag -/

/-- Settles O25: both are a result, NN itself and the sum modulo 256. -/
theorem immediateLoadAndAdd : Obligations.ImmediateLoadAndAdd := by
  intro s x nn
  exact ⟨completesWith_of_result (exec_op6XNN x nn s) rfl,
    completesWith_of_result (exec_op7XNN x nn s) (BitVec.toNat_add ..)⟩

/-- Settles O26: each is a result, computed bit by bit. -/
theorem copyAndLogic : Obligations.CopyAndLogic := by
  intro s x y
  exact ⟨completesWith_of_result (exec_op8XY0 x y s) rfl,
    completesWith_of_result (exec_op8XY1 x y s) (BitVec.toNat_or ..),
    completesWith_of_result (exec_op8XY2 x y s) (BitVec.toNat_and ..),
    completesWith_of_result (exec_op8XY3 x y s) (BitVec.toNat_xor ..)⟩

/-- Settles O31: the result is the conjunction of NN with the RND of the Step's input. -/
theorem randomIsMasked : Obligations.RandomIsMasked := by
  intro s x nn
  exact completesWith_of_result (exec_opCXNN x nn s) (BitVec.toNat_and ..)

/-! ## The forms with a flag -/

theorem byte_shiftRight_one_toNat (a : Byte) : (a >>> 1).toNat = a.toNat / 2 := by
  rw [BitVec.toNat_ushiftRight, Nat.shiftRight_eq_div_pow, pow_one]

theorem byte_shiftLeft_one_toNat (a : Byte) : (a <<< 1).toNat = a.toNat * 2 % 256 := by
  rw [BitVec.toNat_shiftLeft, Nat.shiftLeft_eq, pow_one]

/-- Settles O27: the sum modulo 256 is the result, the carry its flag. -/
theorem addWithCarryOut : Obligations.AddWithCarryOut := by
  intro s x y
  exact completesWithFlag_of_resultFlag (exec_op8XY4 x y s) (BitVec.toNat_add ..) (carryFlag_toNat _ _)

/-- Settles O28: the difference modulo 256 is the result, the complement of the borrow its flag, for the
operands in the one order and in the other. -/
theorem subtractWithNotBorrow : Obligations.SubtractWithNotBorrow := by
  intro s x y
  exact ⟨completesWithFlag_of_resultFlag (exec_op8XY5 x y s) (byte_sub_toNat _ _)
      (notBorrowFlag_toNat _ _),
    completesWithFlag_of_resultFlag (exec_op8XY7 x y s) (byte_sub_toNat _ _) (notBorrowFlag_toNat _ _)⟩

/-- Settles O29: half and twice V[X] are the results, the bit shifted out the flag. -/
theorem shiftsByOne : Obligations.ShiftsByOne := by
  intro s x y
  exact ⟨completesWithFlag_of_resultFlag (exec_op8XY6 x y s) (byte_shiftRight_one_toNat _)
      (shiftedOutRight_toNat _),
    completesWithFlag_of_resultFlag (exec_op8XYE x y s) (byte_shiftLeft_one_toNat _)
      (shiftedOutLeft_toNat _)⟩

/-! ## The flag is written last -/

theorem CompletesWithFlag.vf_eq {i : Instr} {s : State} {x : Reg} {r f : Nat}
    (h : CompletesWithFlag i s x r f) : ∃ t, exec i s = .next t ∧ (t.getV 15).toNat = f := by
  obtain ⟨t, he, hf, -⟩ := h
  exact ⟨t, he, hf⟩

theorem CompletesWithFlag.result_eq {i : Instr} {s : State} {x : Reg} {r f : Nat}
    (h : CompletesWithFlag i s x r f) (hx : x ≠ 15) :
    ∃ t, exec i s = .next t ∧ (t.getV x).toNat = r := by
  obtain ⟨t, he, -, hr, -⟩ := h
  exact ⟨t, he, hr hx⟩

/-- The difference modulo 256 (R80) without its two cases. -/
theorem byte_sub_toNat_mod (a b : Byte) : (a - b).toNat = (a.toNat + 256 - b.toNat) % 256 := by
  have := b.isLt
  rw [BitVec.toNat_sub]
  omega

/-- The five instructions that write a result and then its flag (R93). -/
theorem exec_flagForms (s : State) (x y : Reg) (i : Instr)
    (hi : i ∈ [Instr.op8XY4 x y, .op8XY5 x y, .op8XY6 x y, .op8XY7 x y, .op8XYE x y]) :
    ∃ r c, exec i s = .next (s.resultFlag x r (flagByte c)) := by
  simp only [List.mem_cons, List.not_mem_nil, or_false] at hi
  rcases hi with rfl | rfl | rfl | rfl | rfl
  · exact ⟨_, _, exec_op8XY4 x y s⟩
  · exact ⟨_, _, exec_op8XY5 x y s⟩
  · exact ⟨_, _, exec_op8XY6 x y s⟩
  · exact ⟨_, _, exec_op8XY7 x y s⟩
  · exact ⟨_, _, exec_op8XYE x y s⟩

/-- Settles O30: with X = 15 the flag clauses of O27 to O29 are about the register of the result, with
Y = 15 and another X their result clauses read the old VF. -/
theorem flagReplacesResultInVF : Obligations.FlagReplacesResultInVF := by
  intro s y
  obtain ⟨sub, subReverse⟩ := subtractWithNotBorrow s 15 y
  obtain ⟨shiftRight, shiftLeft⟩ := shiftsByOne s 15 y
  refine ⟨(addWithCarryOut s 15 y).vf_eq, sub.vf_eq, shiftRight.vf_eq, subReverse.vf_eq,
    shiftLeft.vf_eq, fun x hx => ?_, fun x i hi => ?_⟩
  · obtain ⟨sub, subReverse⟩ := subtractWithNotBorrow s x 15
    simp only [← byte_sub_toNat, byte_sub_toNat_mod] at sub subReverse
    exact ⟨(addWithCarryOut s x 15).result_eq hx, sub.result_eq hx, subReverse.result_eq hx⟩
  · obtain ⟨r, c, he⟩ := exec_flagForms s x y i hi
    exact ⟨_, he, by simpa using flagByte_zero_or_one c⟩

end Sys2Proof.Machine
end

section
/-! The index register and stores to memory (R100 to R106): the rules that settle the family
42_index_and_memory.md. -/
namespace Sys2Proof.Machine

/-! ## The index register -/

/-- Every value given to I is reduced modulo 4096 (R13). -/
theorem State.setI_i_toNat (s : State) (n : Nat) : (s.setI n).i.toNat = n % 4096 := by
  have := addr12_lt n
  rw [State.setI_i, BitVec.toNat_ofNat, Nat.mod_eq_of_lt (by omega), addr12]

/-- The frame of every form that writes general registers, I and PC alone. -/
theorem State.keepsBeyondRegs_index (s : State) (v : Vector Byte 16) (i w : Word) :
    KeepsBeyondRegs s { s with v := v, i := i, pc := w } :=
  ⟨fun _ => rfl, ⟨rfl, rfl⟩, ⟨rfl, rfl⟩, ⟨rfl, rfl⟩, rfl, rfl, rfl, rfl, rfl, rfl⟩

theorem exec_opANNN (nnn : Addr) (s : State) :
    exec (.opANNN nnn) s = .next (s.setI nnn.toNat).advance := rfl

/-- Settles O32: a 12-bit address is its own value modulo 4096. -/
theorem indexIsLoaded : Obligations.IndexIsLoaded := by
  intro s nnn
  have hi : (s.setI nnn.toNat).i.toNat = nnn.toNat := by
    rw [s.setI_i_toNat, Nat.mod_eq_of_lt nnn.isLt]
  exact ⟨_, exec_opANNN nnn s, hi, rfl, fun _ _ => rfl, s.keepsBeyondRegs_index s.v _ _⟩

/-! ## What a store leaves unchanged -/

/-- The frame of every form that stores and then writes I and PC alone. -/
theorem State.SameButMem.keepsBeyondMemory {s t : State} (h : s.SameButMem t) (i w : Word) :
    let u := { t with i := i, pc := w }
    KeepsRegsBut [] s u ∧ KeepsStack s u ∧ KeepsTimers s u ∧ KeepsScreen s u ∧ KeepsRest s u :=
  ⟨fun r _ => congrArg (·[r]) h.v, ⟨h.sp, h.stack⟩, ⟨h.dt, h.st⟩, ⟨h.fb, h.dirty⟩,
    h.fault, h.cfg, h.inputs, h.draws, h.unknownOp, h.tones⟩

/-! ## Decimal conversion -/

/-- Each digit fits in its byte (R104). -/
theorem decimalDigits_toNat (x : Byte) :
    (decimalDigits x).map BitVec.toNat = [x.toNat / 100, x.toNat / 10 % 10, x.toNat % 10] := by
  have := x.isLt
  simp only [decimalDigits, List.map_cons, List.map_nil, BitVec.toNat_ofNat, List.cons.injEq, and_true]
  omega

theorem exec_opFX33 (x : Reg) (s : State) :
    exec (.opFX33 x) s = .next (s.writeBytes s.i.toNat (decimalDigits (s.getV x))).advance := rfl

/-- Digit k is read back at `addr12(I + k)`. -/
theorem State.readByte_writeDigits (s : State) (a : Nat) (x : Byte) (k : Nat) (hk : k < 3) :
    ((s.writeBytes a (decimalDigits x)).readByte (addr12 (a + k))).toNat =
      [x.toNat / 100, x.toNat / 10 % 10, x.toNat % 10][k] := by
  have hl : (decimalDigits x).length = 3 := rfl
  rw [State.readByte_addr12, State.readByte_writeBytes_inside _ _ _ (by omega) k (by omega)]
  simp only [← decimalDigits_toNat, List.getElem_map]

/-- The three digits go to the effective addresses of bytes 0, 1 and 2, and nowhere else. -/
theorem State.writeDigits_keepsBytesBut (s : State) (x : Byte) :
    KeepsBytesBut [s.effAddr 0, s.effAddr 1, s.effAddr 2] s
      (s.writeBytes s.i.toNat (decimalDigits x)) := by
  intro a ha
  simp only [List.mem_cons, List.not_mem_nil, or_false, not_or] at ha
  obtain ⟨h0, h1, h2⟩ := ha
  refine s.readByte_writeBytes_outside _ _ _ fun k hk => ?_
  match k, hk with
  | 0, _ => exact h0
  | 1, _ => exact h1
  | 2, _ => exact h2

/-- Settles O35: FX33 is a store of the three digit bytes, then PC + 2. -/
theorem decimalDigitsAreStored : Obligations.DecimalDigitsAreStored := by
  intro s x
  have digit := s.readByte_writeDigits s.i.toNat (s.getV x)
  have same := s.sameButMem_writeBytes s.i.toNat (decimalDigits (s.getV x))
  exact ⟨_, exec_opFX33 x s, digit 0 (by decide), digit 1 (by decide), digit 2 (by decide),
    s.writeDigits_keepsBytesBut _, same.i, congrArg (· + 2) same.pc,
    same.keepsBeyondMemory _ _⟩

end Sys2Proof.Machine
end

section
/-! Clearing the screen (R116): the rules that settle the family 43_display.md. -/
namespace Sys2Proof.Machine

@[simp] theorem Framebuffer.cell_blank (cy : Fin 32) (cx : Fin 64) : blank.cell cy cx = false := by
  simp [blank, cell]

/-- The frame of every form that writes general registers, the screen and PC alone. -/
theorem State.keepsBeyondRegsAndScreen (s : State) (v : Vector Byte 16) (fb : Framebuffer) (d : Bool)
    (w : Word) :
    let t := { s with v := v, fb := fb, dirty := d, pc := w }
    KeepsMemory s t ∧ KeepsStack s t ∧ KeepsTimers s t ∧ KeepsRest s t :=
  ⟨fun _ => rfl, ⟨rfl, rfl⟩, ⟨rfl, rfl⟩, rfl, rfl, rfl, rfl, rfl, rfl⟩

theorem exec_op00E0 (s : State) : exec .op00E0 s = .next (s.show Framebuffer.blank).advance := rfl

/-- Settles O41: 00E0 shows the blank framebuffer, which sets DIRTY, then PC + 2. -/
theorem clearScreenBlanks : Obligations.ClearScreenBlanks := by
  intro s
  exact ⟨_, exec_op00E0 s, Framebuffer.cell_blank, rfl, rfl, rfl, fun _ _ => rfl,
    s.keepsBeyondRegsAndScreen s.v _ _ _⟩

end Sys2Proof.Machine
end

section
/-! The timer instructions (R129 to R131): the rules that settle the family 44_keys_and_timers.md. -/
namespace Sys2Proof.Machine

/-- The frame of every form that writes a timer and PC alone. -/
theorem State.keepsBeyondTimers (s : State) (dt st : Byte) (w : Word) :
    let t := { s with dt := dt, st := st, pc := w }
    KeepsRegsBut [] s t ∧ KeepsMemory s t ∧ KeepsStack s t ∧ KeepsScreen s t ∧ KeepsRest s t :=
  ⟨fun _ _ => rfl, fun _ => rfl, ⟨rfl, rfl⟩, ⟨rfl, rfl⟩, rfl, rfl, rfl, rfl, rfl, rfl⟩

theorem exec_opFX07 (x : Reg) (s : State) : exec (.opFX07 x) s = .next (s.result x s.dt) := rfl

theorem exec_opFX15 (x : Reg) (s : State) :
    exec (.opFX15 x) s = .next (s.setDT (s.getV x)).advance := rfl

theorem exec_opFX18 (x : Reg) (s : State) :
    exec (.opFX18 x) s = .next (s.setST (s.getV x)).advance := rfl

/-- Settles O46: FX07 is a result, the value of DT; FX15 and FX18 each write V[X] to their own timer, then
PC + 2. -/
theorem timerAccess : Obligations.TimerAccess := by
  intro s x
  refine ⟨completesWith_of_result (exec_opFX07 x s) rfl, ⟨_, exec_opFX15 x s, ?_⟩,
    ⟨_, exec_opFX18 x s, ?_⟩⟩
  · exact ⟨rfl, rfl, rfl, rfl, s.keepsBeyondTimers (s.getV x) s.st _⟩
  · exact ⟨rfl, rfl, rfl, rfl, s.keepsBeyondTimers s.dt (s.getV x) _⟩

end Sys2Proof.Machine
end

section
/-! Loading a program (R167): the rules that settle the family 70_reset_and_hazards.md. -/
namespace Sys2Proof.Machine

/-- An image that fits is stored from 0x200 on. -/
theorem State.loadProgram_of_fits (s : State) {image : List Byte} (h : image.length ≤ 3584) :
    s.loadProgram image = s.writeBytes 0x200 image := if_pos h

/-- A longer image is rejected. -/
theorem State.loadProgram_of_tooLong (s : State) {image : List Byte} (h : 3584 < image.length) :
    s.loadProgram image = s := if_neg (Nat.not_le_of_gt h)

/-- A run of stores that ends within memory does not wrap: the bytes below its first address and those
past its last keep their values. -/
theorem State.readByte_writeBytes_of_noWrap (s : State) {a b : Nat} {xs : List Byte}
    (fits : a + xs.length ≤ 4096) (hb : b < a ∨ a + xs.length ≤ b ∧ b < 4096) :
    (s.writeBytes a xs).readByte b = s.readByte b :=
  s.readByte_writeBytes_outside a b xs fun k hk => by simp only [addr12]; omega

/-- Settles O51: an image that fits is a run of stores from 0x200 that does not wrap, since
0x200 + 3584 = 4096; a longer one is rejected. -/
theorem loadProgramCopies : Obligations.LoadProgramCopies := by
  refine fun s image => ⟨fun fits => ?_, s.loadProgram_of_tooLong⟩
  rw [s.loadProgram_of_fits fits]
  have same := s.sameButMem_writeBytes 0x200 image
  obtain ⟨regs, beyond⟩ := same.keepsBeyondMemory (s.writeBytes 0x200 image).i (s.writeBytes 0x200 image).pc
  exact ⟨s.readByte_writeBytes_inside 0x200 image (by omega),
    fun a ha => s.readByte_writeBytes_of_noWrap (by omega) ha, regs, same.i, same.pc, beyond⟩

end Sys2Proof.Machine
end

section
/-! Decode and encode (R45 to R54): the rules that settle the family 30_encoding.md. -/
namespace Sys2Proof

/-! ## The fields of an encoded word, one equation a field -/

@[simp] theorem fieldOP_formatNNN (op : BitVec 4) (nnn : Addr) : fieldOP (op ++ nnn : Word) = op :=
  BitVec.eq_of_toNat_eq (fields_formatNNN op nnn).1

@[simp] theorem fieldNNN_formatNNN (op : BitVec 4) (nnn : Addr) : fieldNNN (op ++ nnn : Word) = nnn :=
  (fields_formatNNN op nnn).2

@[simp] theorem fieldOP_formatXNN (op : BitVec 4) (x : Reg) (nn : Byte) :
    fieldOP (op ++ digit x ++ nn : Word) = op :=
  BitVec.eq_of_toNat_eq (fields_formatXNN op x nn).1

@[simp] theorem fieldX_formatXNN (op : BitVec 4) (x : Reg) (nn : Byte) :
    fieldX (op ++ digit x ++ nn : Word) = x :=
  let ⟨_, hx, _⟩ := fields_formatXNN op x nn; hx

@[simp] theorem fieldNN_formatXNN (op : BitVec 4) (x : Reg) (nn : Byte) :
    fieldNN (op ++ digit x ++ nn : Word) = nn :=
  let ⟨_, _, hnn⟩ := fields_formatXNN op x nn; hnn

@[simp] theorem fieldOP_formatXYN (op : BitVec 4) (x y : Fin 16) (n : BitVec 4) :
    fieldOP (op ++ digit x ++ digit y ++ n : Word) = op :=
  BitVec.eq_of_toNat_eq (fields_formatXYN op x y n.toFin).1

@[simp] theorem fieldX_formatXYN (op : BitVec 4) (x y : Fin 16) (n : BitVec 4) :
    fieldX (op ++ digit x ++ digit y ++ n : Word) = x :=
  let ⟨_, hx, _⟩ := fields_formatXYN op x y n.toFin; hx

@[simp] theorem fieldY_formatXYN (op : BitVec 4) (x y : Fin 16) (n : BitVec 4) :
    fieldY (op ++ digit x ++ digit y ++ n : Word) = y :=
  let ⟨_, _, hy, _⟩ := fields_formatXYN op x y n.toFin; hy

@[simp] theorem fieldN_formatXYN (op : BitVec 4) (x y : Fin 16) (n : BitVec 4) :
    fieldN (op ++ digit x ++ digit y ++ n : Word) = n.toFin :=
  let ⟨_, _, _, hn⟩ := fields_formatXYN op x y n.toFin; hn

/-! ## Decoding an encoded instruction -/

/-- The operation digit selects the arm of the decoder, and each field is read back from the place where its
format puts it (R46). -/
theorem decodeWord_encode (i : Instr) : decodeWord (encode i) = some i := by
  cases i with
  | op00E0 | op00EE => rfl
  | op1NNN nnn | op2NNN nnn | opANNN nnn | opBNNN nnn =>
    simp only [encode, decodeWord, fieldOP_formatNNN, fieldNNN_formatNNN]
    rfl
  | op3XNN x nn | op4XNN x nn | op6XNN x nn | op7XNN x nn | opCXNN x nn =>
    simp only [encode, decodeWord, fieldOP_formatXNN, fieldX_formatXNN, fieldNN_formatXNN]
    rfl
  | opEX9E x | opEXA1 x | opFX07 x | opFX0A x | opFX15 x | opFX18 x | opFX1E x | opFX29 x | opFX33 x
  | opFX55 x | opFX65 x =>
    simp only [encode, decodeWord, fieldOP_formatXNN, fieldX_formatXNN, fieldNN_formatXNN]
    rfl
  | op5XY0 x y | op8XY0 x y | op8XY1 x y | op8XY2 x y | op8XY3 x y | op8XY4 x y | op8XY5 x y
  | op8XY6 x y | op8XY7 x y | op8XYE x y | op9XY0 x y | opDXYN x y n =>
    simp only [encode, decodeWord, fieldOP_formatXYN, fieldX_formatXYN, fieldY_formatXYN,
      fieldN_formatXYN]
    rfl

/-- Settles O2: the word of an instruction decodes to it, and so do the word's two bytes. -/
theorem decodeOfEncode : Obligations.DecodeOfEncode := by
  intro i _
  exact ⟨decodeWord_encode i, decode_wordBytes_some (decodeWord_encode i)⟩

/-- Settles O1: the eight words are decoded digit by digit. -/
theorem writtenWordsDecode : Obligations.WrittenWordsDecode := by
  unfold Obligations.WrittenWordsDecode
  decide

/-! ## Which words decode, and to what -/

/-- A word is its operation digit and its field NNN. -/
theorem word_eq_formatNNN (w : Word) : w = (fieldOP w ++ fieldNNN w : Word) := by
  apply BitVec.eq_of_toNat_eq
  rw [toNat_formatNNN, fieldOP_toNat, fieldNNN_toNat]
  have := w.isLt
  omega

/-- A word is its operation digit, its digit X and its field NN. -/
theorem word_eq_formatXNN (w : Word) : w = (fieldOP w ++ digit (fieldX w) ++ fieldNN w : Word) := by
  apply BitVec.eq_of_toNat_eq
  rw [toNat_formatXNN, fieldOP_toNat, digit_toNat, fieldX_val, fieldNN_toNat]
  have := w.isLt
  omega

theorem decodeFamily0_encode {w : Word} {i : Instr} (h : decodeFamily0 w = some i) : encode i = w := by
  unfold decodeFamily0 at h
  split at h <;> cases h <;> exact BitVec.eq_of_toNat_eq (Eq.symm ‹_›)

theorem decodeFamily8_encode {x y n : Fin 16} {i : Instr} (h : decodeFamily8 x y n = some i) :
    encode i = (0x8#4 ++ digit x ++ digit y ++ digit n : Word) := by
  unfold decodeFamily8 at h
  split at h <;> cases h <;>
    exact congrArg (fun d => (0x8#4 ++ digit x ++ digit y ++ d : Word))
      (BitVec.eq_of_toNat_eq (Eq.symm ‹n.val = _›))

theorem decodeFamilyE_encode {x : Reg} {nn : Byte} {i : Instr} (h : decodeFamilyE x nn = some i) :
    encode i = (0xE#4 ++ digit x ++ nn : Word) := by
  unfold decodeFamilyE at h
  split at h <;> cases h <;>
    exact congrArg (fun b => (0xE#4 ++ digit x ++ b : Word)) (BitVec.eq_of_toNat_eq (Eq.symm ‹_›))

theorem decodeFamilyF_encode {x : Reg} {nn : Byte} {i : Instr} (h : decodeFamilyF x nn = some i) :
    encode i = (0xF#4 ++ digit x ++ nn : Word) := by
  unfold decodeFamilyF at h
  split at h <;> cases h <;>
    exact congrArg (fun b => (0xF#4 ++ digit x ++ b : Word)) (BitVec.eq_of_toNat_eq (Eq.symm ‹_›))

theorem formatNNN_eq_word {w : Word} (op : BitVec 4) (h : (fieldOP w).toNat = op.toNat) :
    (op ++ fieldNNN w : Word) = w := by
  rw [← BitVec.eq_of_toNat_eq h]
  exact (word_eq_formatNNN w).symm

theorem formatXNN_eq_word {w : Word} (op : BitVec 4) (h : (fieldOP w).toNat = op.toNat) :
    (op ++ digit (fieldX w) ++ fieldNN w : Word) = w := by
  rw [← BitVec.eq_of_toNat_eq h]
  exact (word_eq_formatXNN w).symm

theorem formatXYN_eq_word {w : Word} (op : BitVec 4) (h : (fieldOP w).toNat = op.toNat) :
    (op ++ digit (fieldX w) ++ digit (fieldY w) ++ digit (fieldN w) : Word) = w := by
  rw [← BitVec.eq_of_toNat_eq h]
  exact (word_eq_digits w).symm

/-- Families 5 and 9: the last digit must be 0 (R50). -/
theorem formatXY0_eq_word {w : Word} (op : BitVec 4) (h : (fieldOP w).toNat = op.toNat)
    (hn : fieldN w = 0) : (op ++ digit (fieldX w) ++ digit (fieldY w) ++ 0x0#4 : Word) = w := by
  have e := formatXYN_eq_word op h
  rwa [hn] at e

/-- Settles O3, arm by arm (`h_1` to `h_16` are the operation digits 0 to F): the digit that selects the arm
and the fields the arm reads make up the word. -/
theorem encodeOfDecode : Obligations.EncodeOfDecode := by
  intro w i h
  unfold decodeWord at h
  split at h
  case h_1 => exact decodeFamily0_encode h
  case h_2 | h_3 | h_11 | h_12 => cases h; exact formatNNN_eq_word _ ‹_›
  case h_4 | h_5 | h_7 | h_8 | h_13 => cases h; exact formatXNN_eq_word _ ‹_›
  case h_6 | h_10 =>
    split at h
    · cases h; exact formatXY0_eq_word _ ‹_› ‹_›
    · cases h
  case h_9 ho => exact (decodeFamily8_encode h).trans (formatXYN_eq_word _ ho)
  case h_14 => cases h; exact formatXYN_eq_word _ ‹_›
  case h_15 ho => exact (decodeFamilyE_encode h).trans (formatXNN_eq_word _ ho)
  case h_16 ho => exact (decodeFamilyF_encode h).trans (formatXNN_eq_word _ ho)
  case h_17 => cases h

/-! ## The unknown words -/

theorem decodeFamily0_eq_none (w : Word) :
    decodeFamily0 w = none ↔ w.toNat ≠ 0x00E0 ∧ w.toNat ≠ 0x00EE := by
  unfold decodeFamily0
  split <;> simp_all

theorem decodeFamily8_eq_none (x y n : Fin 16) :
    decodeFamily8 x y n = none ↔ n.val ∈ [0x8, 0x9, 0xA, 0xB, 0xC, 0xD, 0xF] := by
  unfold decodeFamily8
  split <;> simp_all
  omega

theorem decodeFamilyE_eq_none (x : Reg) (nn : Byte) :
    decodeFamilyE x nn = none ↔ nn.toNat ∉ [0x9E, 0xA1] := by
  unfold decodeFamilyE
  split <;> simp_all

theorem decodeFamilyF_eq_none (x : Reg) (nn : Byte) :
    decodeFamilyF x nn = none ↔
      nn.toNat ∉ [0x07, 0x0A, 0x15, 0x18, 0x1E, 0x29, 0x33, 0x55, 0x65] := by
  unfold decodeFamilyF
  split <;> simp_all

/-- The operation digit needs no reduction: a word has no bit above it. -/
theorem fieldOP_toNat_eq (w : Word) : (fieldOP w).toNat = w.toNat / 4096 := by
  have := w.isLt
  rw [fieldOP_toNat]
  omega

/-- The table of R53 in terms of the fields; every operation digit has its arm (`h_17` is the rest). -/
theorem decodeWord_eq_none (w : Word) : decodeWord w = none ↔
    ((fieldOP w).toNat = 0x0 ∧ decodeFamily0 w = none) ∨
    (((fieldOP w).toNat = 0x5 ∨ (fieldOP w).toNat = 0x9) ∧ (fieldN w).val ≠ 0) ∨
    ((fieldOP w).toNat = 0x8 ∧ decodeFamily8 (fieldX w) (fieldY w) (fieldN w) = none) ∨
    ((fieldOP w).toNat = 0xE ∧ decodeFamilyE (fieldX w) (fieldNN w) = none) ∨
    ((fieldOP w).toNat = 0xF ∧ decodeFamilyF (fieldX w) (fieldNN w) = none) := by
  unfold decodeWord
  split
  case h_17 =>
    have := (fieldOP w).isLt
    simp only [imp_false] at *
    omega
  all_goals simp [*]

/-- Settles O5: the table of R53 by fields, each read as a quotient or remainder of the word. -/
theorem unknownWordsAreTheListed : Obligations.UnknownWordsAreTheListed := by
  intro w
  rw [decodeWord_eq_none, decodeFamily0_eq_none, decodeFamily8_eq_none, decodeFamilyE_eq_none,
    decodeFamilyF_eq_none, fieldOP_toNat_eq, fieldN_val, fieldNN_toNat]

/-! ## The opcode map -/

/-- The word of every instruction matches its row. -/
theorem row_matches_encode : ∀ i : Instr, i.row.matchesWord (encode i) = true
  | .op00E0 => Laws.RowMatch.op00E0
  | .op00EE => Laws.RowMatch.op00EE
  | .op1NNN nnn => Laws.RowMatch.op1NNN nnn
  | .op2NNN nnn => Laws.RowMatch.op2NNN nnn
  | .op3XNN x nn => Laws.RowMatch.op3XNN x nn
  | .op4XNN x nn => Laws.RowMatch.op4XNN x nn
  | .op5XY0 x y => Laws.RowMatch.op5XY0 x y
  | .op6XNN x nn => Laws.RowMatch.op6XNN x nn
  | .op7XNN x nn => Laws.RowMatch.op7XNN x nn
  | .op8XY0 x y => Laws.RowMatch.op8XY0 x y
  | .op8XY1 x y => Laws.RowMatch.op8XY1 x y
  | .op8XY2 x y => Laws.RowMatch.op8XY2 x y
  | .op8XY3 x y => Laws.RowMatch.op8XY3 x y
  | .op8XY4 x y => Laws.RowMatch.op8XY4 x y
  | .op8XY5 x y => Laws.RowMatch.op8XY5 x y
  | .op8XY6 x y => Laws.RowMatch.op8XY6 x y
  | .op8XY7 x y => Laws.RowMatch.op8XY7 x y
  | .op8XYE x y => Laws.RowMatch.op8XYE x y
  | .op9XY0 x y => Laws.RowMatch.op9XY0 x y
  | .opANNN nnn => Laws.RowMatch.opANNN nnn
  | .opBNNN nnn => Laws.RowMatch.opBNNN nnn
  | .opCXNN x nn => Laws.RowMatch.opCXNN x nn
  | .opDXYN x y n => Laws.RowMatch.opDXYN x y n
  | .opEX9E x => Laws.RowMatch.opEX9E x
  | .opEXA1 x => Laws.RowMatch.opEXA1 x
  | .opFX07 x => Laws.RowMatch.opFX07 x
  | .opFX0A x => Laws.RowMatch.opFX0A x
  | .opFX15 x => Laws.RowMatch.opFX15 x
  | .opFX18 x => Laws.RowMatch.opFX18 x
  | .opFX1E x => Laws.RowMatch.opFX1E x
  | .opFX29 x => Laws.RowMatch.opFX29 x
  | .opFX33 x => Laws.RowMatch.opFX33 x
  | .opFX55 x => Laws.RowMatch.opFX55 x
  | .opFX65 x => Laws.RowMatch.opFX65 x

/-- Every instruction stands in a row of the map. -/
theorem row_mem_opcodeMap (i : Instr) : i.row ∈ opcodeMap := by
  cases i <;> exact List.mem_of_elem_eq_true rfl

/-- Two rows that one word matches agree where both have a literal bit, and no two rows of the map do. -/
theorem rows_disjoint : ∀ r ∈ opcodeMap, ∀ q ∈ opcodeMap,
    r.value &&& q.mask = q.value &&& r.mask → r = q := by
  decide

/-- A word that has the literal digits of an instruction's row is no unknown word. -/
theorem decodeWord_ne_none_of_row_matches {i : Instr} {w : Word} (h : i.row.matchesWord w = true) :
    decodeWord w ≠ none := by
  rw [ne_eq, decodeWord_eq_none]
  cases i with
  | op00E0 | op00EE =>
    obtain rfl := (matches_FFFF _ _ _).1 h
    decide
  | op1NNN | op2NNN | op3XNN | op4XNN | op6XNN | op7XNN | opANNN | opBNNN | opCXNN | opDXYN =>
    have ho := (matches_F000 _ _ _ (by decide)).1 h
    simp [ho]
  | op5XY0 | op8XY0 | op8XY1 | op8XY2 | op8XY3 | op8XY4 | op8XY5 | op8XY6 | op8XY7 | op8XYE | op9XY0 =>
    obtain ⟨ho, hn⟩ := (matches_F00F _ _ _ (by decide)).1 h
    simp [ho, hn, decodeFamily8_eq_none]
  | opEX9E | opEXA1 | opFX07 | opFX0A | opFX15 | opFX18 | opFX1E | opFX29 | opFX33 | opFX55 | opFX65 =>
    obtain ⟨ho, hn⟩ := (matches_F0FF _ _ _ (by decide)).1 h
    simp [ho, hn, decodeFamilyE_eq_none, decodeFamilyF_eq_none]

theorem OpcodeRow.matchesWord_iff (r : OpcodeRow) (w : Word) :
    r.matchesWord w = true ↔ w &&& r.mask = r.value := beq_iff_eq

theorem row_matches_of_decodeWord {w : Word} {i : Instr} (h : decodeWord w = some i) :
    w &&& i.row.mask = i.row.value := by
  rw [← OpcodeRow.matchesWord_iff, ← encodeOfDecode w i h]
  exact row_matches_encode i

theorem row_unique {w : Word} {r q : OpcodeRow} (hr : r ∈ opcodeMap) (hq : q ∈ opcodeMap)
    (hwr : w &&& r.mask = r.value) (hwq : w &&& q.mask = q.value) : r = q := by
  refine rows_disjoint r hr q hq ?_
  rw [← hwr, ← hwq]
  ac_rfl

/-- Settles O4: a decoded word matches its instruction's row; a word that matches a row decodes, to an
instruction of that row because no word matches two. -/
theorem decodeIsExactMatch : Obligations.DecodeIsExactMatch := by
  refine ⟨fun w r hr => ⟨?_, fun hw => ?_⟩, fun w i _ => row_mem_opcodeMap i,
    fun w r hr q hq => row_unique hr hq⟩
  · rintro ⟨i, hi, rfl⟩
    exact row_matches_of_decodeWord hi
  · obtain ⟨j, -, rfl⟩ := List.mem_map.1 hr
    obtain ⟨i, hi⟩ := Option.ne_none_iff_exists'.1
      (decodeWord_ne_none_of_row_matches ((OpcodeRow.matchesWord_iff ..).2 hw))
    exact ⟨i, hi, row_unique (row_mem_opcodeMap i) hr (row_matches_of_decodeWord hi) hw⟩

end Sys2Proof
end

section
/-! The indexed jump, and calls that return (R66, R68, R69): the rules that settle the rest of
40_flow_and_skips.md. -/
namespace Sys2Proof.Machine

/-- The sum of R69 fits in 16 bits. -/
theorem State.indexedTarget_toNat (s : State) (nnn : Addr) :
    (s.indexedTarget nnn).toNat = nnn.toNat + (s.getV 0).toNat := by
  have := nnn.isLt
  have := (s.getV 0).isLt
  rw [State.indexedTarget, BitVec.toNat_add, BitVec.toNat_setWidth_of_le (by decide),
    BitVec.toNat_setWidth_of_le (by decide)]
  omega

theorem exec_opBNNN (nnn : Addr) (s : State) :
    exec (.opBNNN nnn) s = .next (s.setPc (s.indexedTarget nnn)) := rfl

/-- Settles O16: BNNN is a write of the unreduced sum to PC. -/
theorem indexedJumpAddsV0 : Obligations.IndexedJumpAddsV0 := by
  intro s nnn
  exact ⟨_, exec_opBNNN nnn s, s.indexedTarget_toNat nnn, s.setPc_keepsAllButPc _⟩

/-- Adding 2 or 4 to a fetchable address does not wrap (R57). -/
theorem fetchable_add {w : Word} (h : fetchable w = true) :
    (w + 2).toNat = w.toNat + 2 ∧ (w + 4).toNat = w.toNat + 4 := by
  obtain ⟨-, -, hw⟩ := (fetchable_iff w).1 h
  constructor <;> bv_omega

/-- Settles O19: PC is two past the popped entry, which the invariant makes fetchable. -/
theorem returnLandsAfterACall : Obligations.ReturnLandsAfterACall := by
  intro s t inv he h
  obtain ⟨t', he', -, pc, -⟩ := (returnPopsAndAddsTwo s).1 h
  cases he.symm.trans he'
  have entry := inv.stack (s.sp.val - 1) (by omega)
  have two := (fetchable_add entry).1
  obtain ⟨even, low, high⟩ := (fetchable_iff _).1 entry
  rw [← BitVec.toNat_inj, ← BitVec.toNat_inj, pc, two]
  simp only [BitVec.reduceToNat]
  omega

/-- Settles O20: the return pops the entry the call pushed; the call writes no entry below it. -/
theorem returnUndoesCall : Obligations.ReturnUndoesCall := by
  intro s t nnn room he
  obtain ⟨t', he', stack, sp, -⟩ := (callPushesItsAddress s nnn).1 room
  cases he.symm.trans he'
  obtain ⟨u, hu, usp, upc, ustack, -⟩ := (returnPopsAndAddsTwo t).1 (by omega)
  refine ⟨u, hu, ?_, Fin.ext (by omega), fun k hk => ?_⟩
  · simp [upc, stack, sp]
  · simp [ustack, stack, Vector.getElem_set_ne _ _ (Nat.ne_of_gt hk)]

end Sys2Proof.Machine
end

section
/-! The index register and the register block (R102 to R106): the rules that settle the rest of
42_index_and_memory.md. -/
namespace Sys2Proof.Machine

/-! ## The index register -/

theorem exec_opFX29 (x : Reg) (s : State) :
    exec (.opFX29 x) s = .next (s.setI (glyphAddr (s.getV x))).advance := rfl

/-- Settles O33: five times a byte is below 4096. -/
theorem glyphAddressIsFiveTimesByte : Obligations.GlyphAddressIsFiveTimesByte := by
  intro s x
  have := (s.getV x).isLt
  have hi : (s.setI (glyphAddr (s.getV x))).i.toNat = (s.getV x).toNat * 5 := by
    rw [s.setI_i_toNat, glyphAddr]
    omega
  exact ⟨_, exec_opFX29 x s, hi, rfl, fun _ _ => rfl, s.keepsBeyondRegs_index s.v _ _⟩

theorem exec_opFX1E (x : Reg) (s : State) :
    exec (.opFX1E x) s = .next ((s.setI (s.i.toNat + (s.getV x).toNat)).setVF
      (addressOverflowFlag s.i (s.getV x))).advance := rfl

/-- Settles O34: I is the sum modulo 4096, VF the overflow of the unreduced sum. -/
theorem indexAddFlagsOverflow : Obligations.IndexAddFlagsOverflow := by
  intro s x
  refine ⟨_, exec_opFX1E x s, s.setI_i_toNat _, ?_, rfl, fun r hr => ?_, s.keepsBeyondRegs_index _ _ _⟩
  · simp [addressOverflowFlag_toNat]
  · have hr : r ≠ 15 := by simpa using hr
    simp [hr]

/-! ## The register block -/

/-- I after a block store or load keeps its value or moves past the block, by `LS_INCREMENT_I` (R105,
R106). -/
theorem State.lsIncrement_i (s : State) (i : Word) (x : Reg) :
    (s.cfg.lsIncrementI = false → (s.lsIncrement i x).i = s.i) ∧
    (s.cfg.lsIncrementI = true → (s.lsIncrement i x).i.toNat = (i.toNat + x.val + 1) % 4096) := by
  constructor <;> intro h <;> rw [State.lsIncrement, h]
  · rfl
  · exact s.setI_i_toNat _

theorem exec_opFX55 (x : Reg) (s : State) :
    exec (.opFX55 x) s = .next ((s.storeRegs (regsUpTo x)).lsIncrement s.i x).advance := rfl

theorem exec_opFX65 (x : Reg) (s : State) :
    exec (.opFX65 x) s = .next ((s.loadRegs (regsUpTo x)).lsIncrement s.i x).advance := rfl

/-- The increment of I touches I alone. -/
theorem State.lsIncrement_spec (s : State) (i : Word) (x : Reg) :
    ∃ j, s.lsIncrement i x = { s with i := j } :=
  ⟨_, s.lsIncrement_eq i x⟩

@[simp] theorem State.lsIncrement_readByte (s : State) (i : Word) (x : Reg) (b : Nat) :
    (s.lsIncrement i x).readByte b = s.readByte b := by
  rw [State.lsIncrement_eq]
  rfl

@[simp] theorem State.lsIncrement_getV (s : State) (i : Word) (x q : Reg) :
    (s.lsIncrement i x).getV q = s.getV q := by
  rw [State.lsIncrement_eq]
  rfl

/-- The block store writes V[k] at `addr12(I + k)` for k up to X. -/
theorem State.readByte_storeRegsUpTo (s : State) {x k : Reg} (h : k ≤ x) :
    (s.storeRegs (regsUpTo x)).readByte (s.i.toNat + k.val) = s.getV k :=
  (s.readByte_storeRegs _ _).1 k ((mem_regsUpTo x k).2 h) rfl

/-- The block store writes no byte but the X + 1 from I. -/
theorem State.storeRegsUpTo_keepsBytesBut (s : State) (x : Reg) :
    KeepsBytesBut ((List.range (x.val + 1)).map s.effAddr) s (s.storeRegs (regsUpTo x)) := by
  intro a ha
  refine (s.readByte_storeRegs _ _).2 fun k hk e => ha ?_
  have hk : k.val ≤ x.val := (mem_regsUpTo x k).1 hk
  exact List.mem_map.2 ⟨k.val, List.mem_range.2 (by omega), e.symm⟩

/-- Settles O36: FX55 is the block store, the increment of I by `LS_INCREMENT_I`, then PC + 2. -/
theorem blockStore : Obligations.BlockStore := by
  intro s x
  have same := s.sameButMem_storeRegs (regsUpTo x)
  obtain ⟨keep, move⟩ := (s.storeRegs (regsUpTo x)).lsIncrement_i s.i x
  obtain ⟨j, hj⟩ := (s.storeRegs (regsUpTo x)).lsIncrement_spec s.i x
  rw [same.cfg] at keep move
  refine ⟨_, exec_opFX55 x s, fun k hk => ?_, fun a ha => ?_, fun h => (keep h).trans same.i, move, ?_⟩
  · rw [State.advance_eq, State.setPc_readByte, State.lsIncrement_readByte]
    exact (State.readByte_addr12 ..).trans (s.readByte_storeRegsUpTo hk)
  · rw [State.advance_eq, State.setPc_readByte, State.lsIncrement_readByte]
    exact s.storeRegsUpTo_keepsBytesBut x a ha
  · rw [hj]
    exact ⟨congrArg (· + 2) same.pc, same.keepsBeyondMemory _ _⟩

/-- The block load gives V[k] the byte at I + k for k up to X and leaves the other registers. -/
theorem State.getV_loadRegsUpTo (s : State) (x k : Reg) :
    (s.loadRegs (regsUpTo x)).getV k =
      if k ≤ x then s.readByte (s.i.toNat + k.val) else s.getV k := by
  rw [(s.loadRegs_spec _).1, State.effAddr, State.readByte_addr12]
  simp only [mem_regsUpTo]

/-- Settles O37: FX65 is the block load, the increment of I by `LS_INCREMENT_I`, then PC + 2. -/
theorem blockLoad : Obligations.BlockLoad := by
  intro s x
  obtain ⟨v, hv⟩ := (s.loadRegs_spec (regsUpTo x)).2
  obtain ⟨keep, move⟩ := (s.loadRegs (regsUpTo x)).lsIncrement_i s.i x
  obtain ⟨j, hj⟩ := (s.loadRegs (regsUpTo x)).lsIncrement_spec s.i x
  refine ⟨_, exec_opFX65 x s, fun k hk => ?_, fun k hk => ?_, ?_⟩
  · rw [State.advance_eq, State.setPc_getV, State.lsIncrement_getV, s.getV_loadRegsUpTo, if_pos hk]
    exact (State.readByte_addr12 ..).symm
  · rw [State.advance_eq, State.setPc_getV, State.lsIncrement_getV, s.getV_loadRegsUpTo,
      if_neg (not_le.2 hk)]
  · rw [hv] at keep move hj ⊢
    refine ⟨keep, move, ?_⟩
    rw [hj]
    exact ⟨rfl, s.keepsBeyondRegs_index _ _ _⟩

/-- Settles O38: the load reads at I + k what the store wrote there. -/
theorem blockStoreLoadRoundTrip : Obligations.BlockStoreLoadRoundTrip := by
  intro s t u x he hm hi
  obtain ⟨t', he', stored, -⟩ := blockStore s x
  obtain ⟨w, hw, loaded, -⟩ := blockLoad u x
  cases he.symm.trans he'
  refine ⟨w, hw, fun r hr => ?_⟩
  rw [loaded r hr, hm, hi, stored r hr]

/-- Settles O40: the first two bytes of the block are the word at the new PC. -/
theorem storeSeenByNextFetch : Obligations.StoreSeenByNextFetch := by
  intro s x running hx hi hpc
  obtain ⟨t, he, stored, -, -, -, pc, -, -, -, -, fault, -⟩ := blockStore s x
  have byte0 := stored 0 (Fin.zero_le x)
  have byte1 := stored 1 (Fin.le_def.2 hx)
  refine ⟨t, he, ?_⟩
  rw [State.fetch_of_good (fault.trans running) (pc ▸ hpc), State.readWord, pc, ← hi, ← byte0, ← byte1]
  congr 2 <;> exact (t.readByte_addr12 _).symm

end Sys2Proof.Machine
end

section
/-! Drawing a sprite (R117 to R119): the rules that settle the rest of 43_display.md. -/
namespace Sys2Proof.Machine

theorem exec_opDXYN (x y : Reg) (n : Fin 16) (s : State) :
    exec (.opDXYN x y n) s = .next ((s.show (s.drawing x y n).1).setVF
      (collisionFlag (s.drawing x y n).2)).advance := rfl

/-- VF after a draw is the collision (R117). -/
theorem collisionFlag_eq_one (hit : Bool) : collisionFlag hit = 1 ↔ hit = true := by
  cases hit <;> decide

theorem collisionFlag_eq_zero (hit : Bool) : collisionFlag hit = 0 ↔ ¬ hit = true := by
  cases hit <;> decide

/-- Settles O42: the drawing toggles the covered cells and collides where one was lit; DXYN shows it, writes
the collision to VF, then PC + 2. -/
theorem spriteIsXored : Obligations.SpriteIsXored := by
  intro s x y n
  obtain ⟨covered, others, hit⟩ := s.drawing_spec x y n
  refine ⟨_, exec_opDXYN x y n s, covered, others, fun h => ?_, fun h => ?_, rfl, rfl, rfl, fun r hr => ?_,
    s.keepsBeyondRegsAndScreen _ _ _ _⟩
  · simpa using (collisionFlag_eq_one _).2 (hit.2 h)
  · simpa using (collisionFlag_eq_zero _).2 (mt hit.1 h)
  · have hr : r ≠ 15 := by simpa using hr
    simp [hr]

/-- What a sprite covers depends on the coordinates, I and memory alone. -/
theorem State.spriteCovers_congr {s t : State} {x y : Reg} (hx : t.getV x = s.getV x)
    (hy : t.getV y = s.getV y) (hi : t.i = s.i) (hm : KeepsMemory s t) (n : Fin 16) (cy : Fin 32)
    (cx : Fin 64) : t.spriteCovers x y n cy cx ↔ s.spriteCovers x y n cy cx := by
  have hm : ∀ a, t.readByte a = s.readByte a := hm
  simp only [State.spriteCovers, hx, hy, hi, hm]

/-- Settles O43: the second draw covers the same cells, and toggling a cell twice restores it. -/
theorem drawingTwiceRestores : Obligations.DrawingTwiceRestores := by
  intro s t x y n he hx hy
  obtain ⟨t', he', covered, others, -, -, -, -, hi, -, hm, -⟩ := spriteIsXored s x y n
  cases he.symm.trans he'
  obtain ⟨u, hu, covered', others', hit, miss, -⟩ := spriteIsXored t x y n
  simp only [State.spriteCovers_congr hx hy hi hm] at covered' others' hit miss
  refine ⟨u, hu, Framebuffer.cell_ext fun cy cx => ?_, fun h => ?_, hit⟩
  · by_cases h : s.spriteCovers x y n cy cx
    · rw [covered' cy cx h, covered cy cx h, Bool.not_not]
    · rw [others' cy cx h, others cy cx h]
  · by_contra hn
    exact absurd (h.symm.trans (miss hn)) (by decide)

end Sys2Proof.Machine
end

section
/-! Key skips and the key wait (R125 to R128): the rules that settle the rest of 44_keys_and_timers.md. -/
namespace Sys2Proof.Machine

theorem exec_opEX9E (x : Reg) (s : State) :
    exec (.opEX9E x) s = .next (s.skipIf (s.keyOf (s.getV x))) := rfl

theorem exec_opEXA1 (x : Reg) (s : State) :
    exec (.opEXA1 x) s = .next (s.skipIf (!s.keyOf (s.getV x))) := rfl

theorem keyIndexPolicy_eq_draw {p : KeyIndexPolicy} (h : p ≠ .mask) : p = .draw := by
  cases p with
  | mask => exact absurd rfl h
  | draw => rfl

/-- A value above 15 under `draw` reads the free Boolean (R125). -/
theorem State.keyOf_of_drawn {s : State} {v : Byte} (hp : s.cfg.keyIndexPolicy ≠ .mask)
    (hv : ¬ v.toNat ≤ 15) : s.keyOf v = s.input.keyDraw := by
  rw [State.keyOf, keyIndexPolicy_eq_draw hp]
  exact if_pos (Nat.lt_of_not_le hv)

/-- Every other value reads the key of its low nibble (R125). -/
theorem State.keyOf_of_nibble {s : State} {v : Byte} (h : s.cfg.keyIndexPolicy = .mask ∨ v.toNat ≤ 15) :
    s.keyOf v = s.input.key[v.toNat % 16]'(Nat.mod_lt _ (by decide)) := by
  rw [State.keyOf]
  cases hp : s.cfg.keyIndexPolicy with
  | mask => rfl
  | draw =>
    have hv : v.toNat ≤ 15 := h.resolve_left (by simp [hp])
    exact if_neg (Nat.not_lt.2 hv)

/-- Settles O44: `down` is the key that the two skips read, under either policy. -/
theorem skipsOnKey : Obligations.SkipsOnKey := by
  intro s x down drawn nibble
  have hk : s.keyOf (s.getV x) = down := by
    by_cases h : s.cfg.keyIndexPolicy = .mask ∨ (s.getV x).toNat ≤ 15
    · rw [nibble h, State.keyOf_of_nibble h]
    · obtain ⟨hp, hv⟩ := not_or.1 h
      rw [drawn (keyIndexPolicy_eq_draw hp) (Nat.lt_of_not_le hv), State.keyOf_of_drawn hp hv]
  refine ⟨exec_skip (exec_opEX9E x s) (by rw [hk]), ?_⟩
  obtain ⟨t, he, pc, keeps⟩ := exec_skip (p := ¬ down = true) (exec_opEXA1 x s) (by simp [hk])
  exact ⟨t, he, by rw [pc, ite_not], keeps⟩

theorem exec_opFX0A_of_key {s : State} {k : Reg} (x : Reg) (h : s.pickKey = some k) :
    exec (.opFX0A x) s = .next (s.result x (BitVec.ofNat 8 k.val)) := by
  change execFX0A x s = _
  rw [execFX0A, h]
  rfl

theorem exec_opFX0A_of_noKey {s : State} (x : Reg) (h : s.pickKey = none) :
    exec (.opFX0A x) s = .next s := by
  change execFX0A x s = _
  rw [execFX0A, h]

/-- A key is picked whenever one is down (R128). -/
theorem State.exists_pickKey {s : State} (h : ∃ k : Fin 16, s.input.key[k] = true) :
    ∃ k, s.pickKey = some k := by
  refine Option.ne_none_iff_exists'.1 fun hn => ?_
  obtain ⟨k, hk⟩ := h
  exact absurd (hk.symm.trans (s.pickKey_none_iff.1 hn k)) (by decide)

/-- A key number fits in a byte. -/
theorem keyNumber_toNat (k : Reg) : (BitVec.ofNat 8 k.val).toNat = k.val := by
  rw [BitVec.toNat_ofNat]
  omega

/-- Settles O45: the key picked is a pressed one, the first in the order of `KEY_PRIORITY`, and its number
is the result. -/
theorem keyWait : Obligations.KeyWait := by
  intro s x
  refine ⟨fun h => exec_opFX0A_of_noKey x (s.pickKey_none_iff.2 h), fun h => ?_⟩
  obtain ⟨k, hk⟩ := State.exists_pickKey h
  obtain ⟨t, he, value, pc, hi, regs, beyond⟩ :=
    completesWith_of_result (exec_opFX0A_of_key x hk) (keyNumber_toNat k)
  exact ⟨t, k, he, State.pickKey_pressed hk, value, pc, hi, regs, beyond,
    fun hp j hj => State.pickKey_lowest hp hk j hj, fun hp j hj => State.pickKey_highest hp hk j hj⟩

end Sys2Proof.Machine
end

section
/-! TimerTick (R152 to R156): the rules that settle 60_exceptions.md section 7. -/
namespace Sys2Proof.Machine

/-- The frame of a TimerTick: DT, ST and the outputs are all it can change. -/
theorem State.timerTick_keeps (s : State) :
    KeepsRegsBut [] s s.timerTick ∧ s.timerTick.i = s.i ∧ s.timerTick.pc = s.pc ∧
      KeepsMemory s s.timerTick ∧ KeepsStack s s.timerTick ∧ KeepsScreen s s.timerTick ∧
      s.timerTick.fault = s.fault := by
  obtain ⟨d, t, o, e⟩ := s.timerTick_spec
  rw [e]
  exact ⟨fun _ _ => rfl, rfl, rfl, fun _ => rfl, ⟨rfl, rfl⟩, ⟨rfl, rfl⟩, rfl⟩

/-- A timer that stops at 0 loses 1 as a number does. -/
theorem timer_decrement_toNat (x : Byte) : (if x = 0 then 0 else x - 1).toNat = x.toNat - 1 := by
  split
  · next h => rw [h]; rfl
  · next h => bv_omega

theorem State.timerTick_dt_toNat {s : State} (h : s.fault = .none) :
    s.timerTick.dt.toNat = s.dt.toNat - 1 := by
  rw [State.timerTick_of_running h]
  exact timer_decrement_toNat s.dt

theorem State.timerTick_st_toNat {s : State} (h : s.fault = .none) :
    s.timerTick.st.toNat = s.st.toNat - 1 := by
  rw [State.timerTick_of_running h]
  exact timer_decrement_toNat s.st

/-- Each TimerTick gives one output (R154). -/
theorem State.timerTick_tones (s : State) : s.timerTick.tones = s.tones ++ [s.timerTick.toneReq] := by
  obtain ⟨d, t, o, e⟩ := s.timerTick_spec
  simp [e, State.toneReq]

theorem State.timerTick_toneReq_of_fault {s : State} (h : s.fault ≠ .none) :
    s.timerTick.toneReq = false := by
  rw [State.timerTick_of_fault h, State.emitTone_toneReq]

/-- The outputs are no state of the CORE. -/
theorem State.emitTone_keepsCore (s : State) (b : Bool) : KeepsCore s (s.emitTone b) :=
  ⟨rfl, rfl, rfl, ⟨rfl, rfl⟩, ⟨rfl, rfl⟩, ⟨rfl, rfl⟩, rfl, rfl⟩

/-- Settles O47: a halted tick only emits its output; a running one lowers each timer that is not 0. -/
theorem timerTickDecrements : Obligations.TimerTickDecrements := by
  intro s
  refine ⟨s.timerTick_tones, fun h => ?_, fun h => ?_⟩
  · have tone := State.timerTick_toneReq_of_fault h
    rw [State.timerTick_of_fault h] at tone ⊢
    exact ⟨s.emitTone_keepsCore false, rfl, rfl, tone⟩
  · have dt := State.timerTick_dt_toNat h
    have st := State.timerTick_st_toNat h
    refine ⟨fun _ => dt, fun h0 => ?_, fun _ => st, fun h0 => ?_, by simp [s.timerTick_toneReq, h],
      s.timerTick_keeps⟩
    · exact BitVec.eq_of_toNat_eq (by rw [dt, h0]; rfl)
    · exact BitVec.eq_of_toNat_eq (by rw [st, h0]; rfl)

@[simp] theorem State.timerTick_fault (s : State) : s.timerTick.fault = s.fault := by
  obtain ⟨d, t, o, e⟩ := s.timerTick_spec
  rw [e]

/-- What k TimerTicks do to a running machine. -/
theorem State.ticks_spec {s : State} (h : s.running) (k : Nat) :
    (s.ticks k).fault = .none ∧ (s.ticks k).dt.toNat = s.dt.toNat - k ∧
      (s.ticks k).st.toNat = s.st.toNat - k := by
  induction k with
  | zero => exact ⟨h, rfl, rfl⟩
  | succ k ih =>
    obtain ⟨fault, dt, st⟩ := ih
    rw [State.ticks, State.timerTick_fault, State.timerTick_dt_toNat fault, State.timerTick_st_toNat fault]
    exact ⟨fault, by omega, by omega⟩

/-- Settles O48. -/
theorem delayTimerCountsDown : Obligations.DelayTimerCountsDown := by
  intro s k h
  obtain ⟨-, dt, -⟩ := State.ticks_spec h k
  exact dt

/-- Settles O49: the k-th tick requests the tone exactly if the k - 1 before it left ST at 1. -/
theorem oneToneAtTheVthTick : Obligations.OneToneAtTheVthTick := by
  intro s t x k running he hk
  cases (exec_opFX18 x s).symm.trans he
  obtain ⟨j, rfl⟩ := Nat.exists_eq_add_of_le' hk
  obtain ⟨fault, -, st⟩ := State.ticks_spec (s := (s.setST (s.getV x)).advance) running j
  have st : _ = (s.getV x).toNat - j := st
  rw [State.ticks, State.timerTick_toneReq, ← BitVec.toNat_inj, st]
  simp only [fault, true_and, BitVec.reduceToNat]
  omega

end Sys2Proof.Machine
end

section
/-! Reset and the host's moves (R24, R165 to R169): the rules that settle the rest of
70_reset_and_hazards.md. -/
namespace Sys2Proof.Machine

/-- A memory with nothing listed is the font and zeros (R24). -/
theorem State.readByte_of_mem_nil {s : State} (h : s.mem = []) (a : Nat) (ha : a < 4096) :
    s.readByte a = Memory.unlisted s.cfg.fontTable a := by
  rw [State.readByte, h, addr12, Nat.mod_eq_of_lt ha]
  rfl

/-- Settles O50: a Reset differs from the first state in the parameters, the inputs and the outputs alone,
and memory has nothing listed in either. -/
theorem resetValues : Obligations.ResetValues := by
  intro s t ht
  obtain ⟨c, ins, d, u, o, rfl⟩ : ∃ c ins d u o, t = { State.reset with
      cfg := c, inputs := ins, draws := d, unknownOp := u, tones := o } := by
    simp only [List.mem_cons, List.not_mem_nil, or_false] at ht
    rcases ht with rfl | rfl <;> exact ⟨_, _, _, _, _, rfl⟩
  refine ⟨fun r => Vector.getElem_replicate _, rfl, rfl, rfl, fun k => Vector.getElem_replicate _, rfl, rfl,
    Framebuffer.cell_blank, fun a ha => ?_, fun a ha hb => ?_, rfl, rfl⟩
  · rw [State.readByte_of_mem_nil rfl a (by omega), Memory.unlisted, dif_pos ha]
  · rw [State.readByte_of_mem_nil rfl a hb, Memory.unlisted, dif_neg (Nat.not_lt.2 ha)]

theorem State.hostMove_timerTick_perStep {s : State} (h : s.cfg.timerMode = .perStep) :
    s.hostMove .timerTick = s := by
  rw [State.hostMove, h]

theorem State.hostMove_timerTick_external {s : State} (h : s.cfg.timerMode = .externalTick) :
    s.hostMove .timerTick = s.timerTick := by
  rw [State.hostMove, h]

/-- Settles O52: ClearDirty is a write to DIRTY, TimerTick goes by the timer mode, boot is Reset and load. -/
theorem hostMoves : Obligations.HostMoves := by
  intro s image
  exact ⟨⟨rfl, rfl, fun _ _ => rfl, rfl, rfl, fun _ => rfl, ⟨rfl, rfl⟩, ⟨rfl, rfl⟩,
      rfl, rfl, rfl, rfl, rfl, rfl⟩,
    State.hostMove_timerTick_perStep, State.hostMove_timerTick_external, rfl⟩

end Sys2Proof.Machine
end

section
/-! What each instruction leaves unchanged: the rules over all 34 instructions. -/
namespace Sys2Proof.Machine

variable {i : Instr} {s t : State} {x : Reg}

/-! ## The instructions whose meaning branches or loops, as one update of the state each

Every other meaning is already one update, by definition. -/

/-- 2NNN has room and pushes, or has none and faults (R68). -/
theorem exec_op2NNN_cases {nnn : Addr} (h : exec (.op2NNN nnn) s = .next t) :
    (∃ room : s.sp.val < 16, t = { s with
      sp := ⟨s.sp.val + 1, by omega⟩, stack := s.stack.set s.sp.val s.pc, pc := targetNNN nnn }) ∨
    (s.sp.val = 16 ∧ t = s.raise .stackOverflow) := by
  by_cases room : s.sp.val < 16
  · rw [exec_op2NNN_of_room nnn s room] at h
    cases h
    exact .inl ⟨room, rfl⟩
  · have full : s.sp.val = 16 := by omega
    rw [exec_op2NNN_of_full nnn s full] at h
    cases h
    exact .inr ⟨full, rfl⟩

/-- 00EE has an entry to pop, or has none and faults (R66). -/
theorem exec_op00EE_cases (h : exec .op00EE s = .next t) :
    (∃ used : 0 < s.sp.val, t = { s with
      sp := ⟨s.sp.val - 1, by omega⟩, pc := s.stack[s.sp.val - 1]'(by omega) + 2 }) ∨
    (s.sp.val = 0 ∧ t = s.raise .stackUnderflow) := by
  by_cases used : 0 < s.sp.val
  · rw [exec_op00EE_of_used s used] at h
    cases h
    exact .inl ⟨used, rfl⟩
  · have empty : s.sp.val = 0 := by omega
    rw [exec_op00EE_of_empty s empty] at h
    cases h
    exact .inr ⟨empty, rfl⟩

/-- FX0A waits, or picks a key (R128). -/
theorem exec_opFX0A_cases (h : exec (.opFX0A x) s = .next t) :
    (s.pickKey = none ∧ t = s) ∨ ∃ k, s.pickKey = some k ∧ t = s.result x (BitVec.ofNat 8 k.val) := by
  cases hk : s.pickKey with
  | none =>
    rw [exec_opFX0A_of_noKey x hk] at h
    cases h
    exact .inl ⟨rfl, rfl⟩
  | some k =>
    rw [exec_opFX0A_of_key x hk] at h
    cases h
    exact .inr ⟨k, rfl, rfl⟩

/-- FX33 stores and moves on (R104). -/
theorem exec_opFX33_cases (h : exec (.opFX33 x) s = .next t) :
    ∃ u, s.SameButMem u ∧ (s.memWf → u.memWf) ∧ t = { u with pc := s.pc + 2 } := by
  have same := s.sameButMem_writeBytes s.i.toNat (decimalDigits (s.getV x))
  rw [exec_opFX33, State.advance_eq, same.pc] at h
  cases h
  exact ⟨_, same, State.memWf_writeBytes _ _, rfl⟩

/-- FX55 stores, moves I or leaves it, and moves on (R105). -/
theorem exec_opFX55_cases (h : exec (.opFX55 x) s = .next t) :
    ∃ u, s.SameButMem u ∧ (s.memWf → u.memWf) ∧
      t = { u with i := (u.lsIncrement s.i x).i, pc := s.pc + 2 } := by
  have same := s.sameButMem_storeRegs (regsUpTo x)
  rw [exec_opFX55, State.advance_eq, State.lsIncrement_eq, same.pc] at h
  cases h
  exact ⟨_, same, State.memWf_storeRegs _, by rw [State.lsIncrement_eq]; rfl⟩

/-- FX65 loads, moves I or leaves it, and moves on (R106). -/
theorem exec_opFX65_cases (h : exec (.opFX65 x) s = .next t) :
    ∃ v, t = { s with v := v, i := (s.lsIncrement s.i x).i, pc := s.pc + 2 } := by
  obtain ⟨v, hv⟩ := (s.loadRegs_spec (regsUpTo x)).2
  rw [exec_opFX65, State.advance_eq, State.lsIncrement_eq, hv] at h
  cases h
  exact ⟨v, by rw [State.lsIncrement_eq]; rfl⟩

/-! ## Answers and faults -/

theorem State.SameButMem.keepsRest (h : s.SameButMem t) : KeepsRest s t :=
  ⟨h.fault, h.cfg, h.inputs, h.draws, h.unknownOp, h.tones⟩

theorem State.SameButMem.getV_eq (h : s.SameButMem t) (r : Reg) : t.getV r = s.getV r :=
  congrArg (·[r]) h.v

/-- No instruction stops the machine or is refused. -/
theorem exec_answers (i : Instr) (s : State) : ∃ t, exec i s = .next t := by
  cases i <;> exact ⟨_, rfl⟩

/-- Every instruction keeps FAULT, the parameters, the inputs and the outputs, but a 2NNN with a full stack
and a 00EE with an empty one, which set the latch and do nothing else (R66, R68, R148). -/
theorem exec_keepsRest (h : exec i s = .next t) :
    KeepsRest s t ∨
    ((∃ nnn, i = .op2NNN nnn) ∧ s.sp.val = 16 ∧ t = s.raise .stackOverflow) ∨
    (i = .op00EE ∧ s.sp.val = 0 ∧ t = s.raise .stackUnderflow) := by
  cases i with
  | op2NNN nnn =>
    obtain ⟨-, rfl⟩ | ⟨full, rfl⟩ := exec_op2NNN_cases h
    · exact .inl ⟨rfl, rfl, rfl, rfl, rfl, rfl⟩
    · exact .inr (.inl ⟨⟨nnn, rfl⟩, full, rfl⟩)
  | op00EE =>
    obtain ⟨-, rfl⟩ | ⟨empty, rfl⟩ := exec_op00EE_cases h
    · exact .inl ⟨rfl, rfl, rfl, rfl, rfl, rfl⟩
    · exact .inr (.inr ⟨rfl, empty, rfl⟩)
  | opFX0A x =>
    obtain ⟨-, rfl⟩ | ⟨k, -, rfl⟩ := exec_opFX0A_cases h <;> exact .inl ⟨rfl, rfl, rfl, rfl, rfl, rfl⟩
  | opFX33 x =>
    obtain ⟨u, same, -, rfl⟩ := exec_opFX33_cases h
    exact .inl same.keepsRest
  | opFX55 x =>
    obtain ⟨u, same, -, rfl⟩ := exec_opFX55_cases h
    exact .inl same.keepsRest
  | opFX65 x =>
    obtain ⟨v, rfl⟩ := exec_opFX65_cases h
    exact .inl ⟨rfl, rfl, rfl, rfl, rfl, rfl⟩
  | _ =>
    cases h
    exact .inl ⟨rfl, rfl, rfl, rfl, rfl, rfl⟩

/-! ## Registers, memory, and the rest -/

/-- The registers an instruction can write: its destinations, and VF if it is a flag writer. -/
theorem exec_keepsRegs (h : exec i s = .next t) :
    KeepsRegsBut (if flagWriter i then 15 :: destRegs i else destRegs i) s t := by
  intro r hr
  cases i with
  | op2NNN nnn => obtain ⟨-, rfl⟩ | ⟨-, rfl⟩ := exec_op2NNN_cases h <;> rfl
  | op00EE => obtain ⟨-, rfl⟩ | ⟨-, rfl⟩ := exec_op00EE_cases h <;> rfl
  | opFX0A x =>
    obtain ⟨-, rfl⟩ | ⟨k, -, rfl⟩ := exec_opFX0A_cases h
    · rfl
    · exact s.result_keepsRegsBut x _ r hr
  | opFX33 x =>
    obtain ⟨u, same, -, rfl⟩ := exec_opFX33_cases h
    exact same.getV_eq r
  | opFX55 x =>
    obtain ⟨u, same, -, rfl⟩ := exec_opFX55_cases h
    exact same.getV_eq r
  | opFX65 x =>
    obtain ⟨t', he, -, above, -⟩ := blockLoad s x
    cases h.symm.trans he
    exact above r (not_le.1 fun hx => hr ((mem_regsUpTo x r).2 hx))
  | op6XNN x | op7XNN x | op8XY0 x | op8XY1 x | op8XY2 x | op8XY3 x | opCXNN x | opFX07 x =>
    cases h
    exact s.result_keepsRegsBut x _ r hr
  | op8XY4 x | op8XY5 x | op8XY6 x | op8XY7 x | op8XYE x =>
    cases h
    exact s.resultFlag_keepsRegsBut x _ _ r (by simpa [flagWriter, destRegs, and_comm] using hr)
  | opDXYN x y n =>
    obtain ⟨t', he, -, -, -, -, -, -, -, regs, -⟩ := spriteIsXored s x y n
    cases h.symm.trans he
    exact regs r hr
  | opFX1E x =>
    obtain ⟨t', he, -, -, -, regs, -⟩ := indexAddFlagsOverflow s x
    cases h.symm.trans he
    exact regs r hr
  | _ =>
    cases h
    rfl

/-- "The flag is always 0 or 1" (R93), for all seven flag writers. -/
theorem exec_flagWriter (h : exec i s = .next t) (hf : flagWriter i = true) :
    t.getV 15 = 0 ∨ t.getV 15 = 1 := by
  suffices ∃ c, t.getV 15 = flagByte c by
    obtain ⟨c, hc⟩ := this
    exact hc ▸ flagByte_zero_or_one c
  cases i with
  | op8XY4 x y | op8XY5 x y | op8XY6 x y | op8XY7 x y | op8XYE x y | opDXYN x y n | opFX1E x =>
    cases h
    exact ⟨_, State.setV_getV .. ▸ if_pos rfl⟩
  | _ => cases hf

/-- Settles O56. -/
theorem registersAndFlagWritten : Obligations.RegistersAndFlagWritten := by
  refine fun i s t h => ⟨fun r hd hf => exec_keepsRegs h r ?_, exec_flagWriter h⟩
  split
  · next hw => exact List.not_mem_cons_of_ne_of_not_mem (fun e => hf ⟨hw, e⟩) hd
  · exact hd

/-- Settles O57: the addresses of the two stores are those of O35 and O36; no other meaning touches memory. -/
theorem memoryWrittenOnlyByStores : Obligations.MemoryWrittenOnlyByStores := by
  intro i s t h
  cases i with
  | op2NNN nnn => obtain ⟨-, rfl⟩ | ⟨-, rfl⟩ := exec_op2NNN_cases h <;> exact fun _ _ => rfl
  | op00EE => obtain ⟨-, rfl⟩ | ⟨-, rfl⟩ := exec_op00EE_cases h <;> exact fun _ _ => rfl
  | opFX0A x => obtain ⟨-, rfl⟩ | ⟨k, -, rfl⟩ := exec_opFX0A_cases h <;> exact fun _ _ => rfl
  | opFX65 x =>
    obtain ⟨v, rfl⟩ := exec_opFX65_cases h
    exact fun _ _ => rfl
  | opFX33 x =>
    obtain ⟨t', he, -, -, -, bytes, -⟩ := decimalDigitsAreStored s x
    cases h.symm.trans he
    exact bytes
  | opFX55 x =>
    obtain ⟨t', he, -, bytes, -⟩ := blockStore s x
    cases h.symm.trans he
    exact bytes
  | _ =>
    cases h
    exact fun _ _ => rfl

/-- Settles O58: each meaning writes the fields it is listed for, by its one update of the state. -/
theorem otherStateWrittenOnlyByItsWriters : Obligations.OtherStateWrittenOnlyByItsWriters := by
  intro i s t h
  cases i with
  | op2NNN nnn =>
    obtain ⟨-, rfl⟩ | ⟨-, rfl⟩ := exec_op2NNN_cases h <;>
      exact ⟨rfl, trivial, ⟨rfl, rfl⟩, ⟨rfl, rfl⟩, trivial⟩
  | op00EE =>
    obtain ⟨-, rfl⟩ | ⟨-, rfl⟩ := exec_op00EE_cases h <;>
      exact ⟨rfl, rfl, ⟨rfl, rfl⟩, ⟨rfl, rfl⟩, trivial⟩
  | opFX0A x =>
    obtain ⟨-, rfl⟩ | ⟨k, -, rfl⟩ := exec_opFX0A_cases h <;>
      exact ⟨rfl, ⟨rfl, rfl⟩, ⟨rfl, rfl⟩, ⟨rfl, rfl⟩, rfl⟩
  | opFX33 x =>
    obtain ⟨u, same, -, rfl⟩ := exec_opFX33_cases h
    exact ⟨same.i, ⟨same.sp, same.stack⟩, ⟨same.dt, same.st⟩, ⟨same.fb, same.dirty⟩, same.fault⟩
  | opFX55 x =>
    obtain ⟨u, same, -, rfl⟩ := exec_opFX55_cases h
    exact ⟨fun hp => ((u.lsIncrement_i s.i x).1 (same.cfg ▸ hp)).trans same.i, ⟨same.sp, same.stack⟩,
      ⟨same.dt, same.st⟩, ⟨same.fb, same.dirty⟩, same.fault⟩
  | opFX65 x =>
    obtain ⟨v, rfl⟩ := exec_opFX65_cases h
    exact ⟨(s.lsIncrement_i s.i x).1, ⟨rfl, rfl⟩, ⟨rfl, rfl⟩, ⟨rfl, rfl⟩, rfl⟩
  | opANNN | opFX1E | opFX29 =>
    cases h
    exact ⟨trivial, ⟨rfl, rfl⟩, ⟨rfl, rfl⟩, ⟨rfl, rfl⟩, rfl⟩
  | op00E0 | opDXYN =>
    cases h
    exact ⟨rfl, ⟨rfl, rfl⟩, ⟨rfl, rfl⟩, rfl, rfl⟩
  | opFX15 | opFX18 =>
    cases h
    exact ⟨rfl, ⟨rfl, rfl⟩, rfl, ⟨rfl, rfl⟩, rfl⟩
  | _ =>
    cases h
    exact ⟨rfl, ⟨rfl, rfl⟩, ⟨rfl, rfl⟩, ⟨rfl, rfl⟩, rfl⟩

/-! ## PC -/

/-- PC after an instruction of the policy "skip" (R57). -/
theorem pc_of_exec_skip {c : Bool} {p : Prop} [Decidable p] (h : exec i s = .next t)
    (he : exec i s = .next (s.skipIf c)) (hc : c = true ↔ p) : t.pc = if p then s.pc + 4 else s.pc + 2 := by
  obtain ⟨t', he', pc, -⟩ := exec_skip he hc
  cases h.symm.trans he'
  exact pc

/-- Settles O23: jumps, calls, returns and skips have a rule of their own; FX0A waits or moves on; the rest
end with PC + 2. -/
theorem pcPolicyOfEveryInstruction : Obligations.PcPolicyOfEveryInstruction := by
  refine ⟨fun i s t h => ?_, fun s w => rfl, fun pc hp => ?_⟩
  · cases i with
    | op1NNN nnn =>
      cases h
      exact targetNNN_toNat nnn
    | op2NNN nnn =>
      obtain ⟨room, rfl⟩ | ⟨full, rfl⟩ := exec_op2NNN_cases h
      · simp [Nat.ne_of_lt room]
      · simp [full]
    | op00EE =>
      obtain ⟨used, rfl⟩ | ⟨empty, rfl⟩ := exec_op00EE_cases h
      · simp [used]
      · simp [empty]
    | opBNNN nnn =>
      cases h
      exact s.indexedTarget_toNat nnn
    | op3XNN x nn => exact pc_of_exec_skip h (exec_op3XNN x nn s) beq_iff_eq
    | op4XNN x nn => exact pc_of_exec_skip h (exec_op4XNN x nn s) bne_iff_ne
    | op5XY0 x y => exact pc_of_exec_skip h (exec_op5XY0 x y s) beq_iff_eq
    | op9XY0 x y => exact pc_of_exec_skip h (exec_op9XY0 x y s) bne_iff_ne
    | opEX9E x => exact pc_of_exec_skip h (exec_opEX9E x s) Iff.rfl
    | opEXA1 x => exact pc_of_exec_skip h (exec_opEXA1 x s) (Bool.not_eq_true' _ ▸ Iff.rfl)
    | opFX0A x =>
      obtain ⟨wait, go⟩ := keyWait s x
      refine ⟨fun hk => ?_, fun hk => ?_⟩
      · obtain ⟨t', k, he, -, -, pc, -⟩ := go hk
        cases h.symm.trans he
        exact pc
      · cases h.symm.trans (wait hk)
        rfl
    | opFX33 x =>
      obtain ⟨u, -, -, rfl⟩ := exec_opFX33_cases h
      rfl
    | opFX55 x =>
      obtain ⟨u, -, -, rfl⟩ := exec_opFX55_cases h
      rfl
    | opFX65 x =>
      obtain ⟨v, rfl⟩ := exec_opFX65_cases h
      rfl
    | _ =>
      cases h
      rfl
  · obtain ⟨two, four⟩ := fetchable_add hp
    obtain ⟨-, -, high⟩ := (fetchable_iff pc).1 hp
    exact ⟨two, four, by omega⟩

end Sys2Proof.Machine
end

section
/-! What a Step does (R56, R141 to R149, R171): the rules that settle the statements about the Step. -/
namespace Sys2Proof.Machine

variable {i : Instr} {s t u : State}

/-! ## The input of a Step -/

/-- The input is read from the parameters, the inputs to come and the draw counter. -/
theorem KeepsRest.input_eq (h : KeepsRest s t) : t.input = s.input := by
  obtain ⟨-, cfg, inputs, draws, -, -⟩ := h
  rw [State.input, cfg, inputs, draws, State.input]

/-- No instruction changes the input of its Step. -/
theorem exec_input (h : exec i s = .next t) : t.input = s.input := by
  obtain rest | ⟨-, -, rfl⟩ | ⟨-, -, rfl⟩ := exec_keepsRest h
  · exact rest.input_eq
  · rfl
  · rfl

theorem exec_hostIdle (h : exec i s.clearOutputs = .next u) (idle : s.hostIdle) : u.hostIdle :=
  (congrArg StepInput.after (exec_input h)).trans idle

/-! ## The end of a Step when the host makes no move -/

/-- A faulted or halted Step only uses up its input (R148, R149). -/
theorem State.finishStep_of_fault (idle : s.hostIdle) (h : s.fault ≠ .none) :
    s.finishStep = s.takeInput := by
  rw [State.finishStep_of_idle idle, State.stepTick_of_fault h]

theorem State.stepTick_of_external (h : s.cfg.timerMode = .externalTick) : s.stepTick = s := by
  rw [State.stepTick, h]

theorem State.finishStep_of_external (idle : s.hostIdle) (h : s.cfg.timerMode = .externalTick) :
    s.finishStep = s.takeInput := by
  rw [State.finishStep_of_idle idle, State.stepTick_of_external h]

theorem State.finishStep_of_perStep (idle : s.hostIdle) (h : s.fault = .none)
    (hm : s.cfg.timerMode = .perStep) : s.finishStep = s.timerTick.takeInput := by
  rw [State.finishStep_of_idle idle, State.stepTick_of_running h hm]

/-- The end of a Step changes the timers, the outputs of the ticks and the input side alone. -/
theorem State.finishStep_spec (idle : s.hostIdle) :
    ∃ d st o, s.finishStep = { s with
      dt := d, st := st, tones := o, inputs := s.inputs.tail, draws := s.draws + 1 } := by
  obtain ⟨d, st, o, e⟩ := s.stepTick_spec
  exact ⟨d, st, o, by rw [State.finishStep_of_idle idle, e]; rfl⟩

theorem State.finishStep_fault (idle : s.hostIdle) : s.finishStep.fault = s.fault := by
  obtain ⟨d, st, o, e⟩ := State.finishStep_spec idle
  rw [e]

/-- A running Step under `per_step` ends with one TimerTick (R56). -/
theorem State.finishStep_tick (idle : s.hostIdle) (h : s.fault = .none)
    (hm : s.cfg.timerMode = .perStep) :
    s.finishStep.dt.toNat = s.dt.toNat - 1 ∧ s.finishStep.st.toNat = s.st.toNat - 1 ∧
      s.finishStep.toneReq = (s.st == 1) := by
  have tone : s.timerTick.toneReq = (s.st == 1) := by
    rw [Bool.eq_iff_iff, s.timerTick_toneReq, beq_iff_eq]
    exact and_iff_right h
  rw [State.finishStep_of_perStep idle h hm]
  exact ⟨State.timerTick_dt_toNat h, State.timerTick_st_toNat h, tone⟩

/-- Any other Step ends with none (R148, R155). -/
theorem State.finishStep_noTick (idle : s.hostIdle)
    (h : s.fault ≠ .none ∨ s.cfg.timerMode = .externalTick) :
    KeepsTimers s s.finishStep ∧ s.finishStep.tones = s.tones := by
  rw [h.elim (State.finishStep_of_fault idle) (State.finishStep_of_external idle)]
  exact ⟨⟨rfl, rfl⟩, rfl⟩

/-- Settles O7: the two modes and the latch decide whether there is a tick; the frame is one update of the
state. -/
theorem stepEndsWithTick : Obligations.StepEndsWithTick := by
  intro u idle
  have tick := State.finishStep_tick idle
  have noTick := State.finishStep_noTick idle
  obtain ⟨d, st, o, e⟩ := State.finishStep_spec idle
  rw [e] at tick noTick ⊢
  exact ⟨fun _ _ => rfl, rfl, rfl, ⟨rfl, rfl⟩, ⟨rfl, rfl⟩, fun _ => rfl, rfl, rfl, rfl, rfl, rfl, tick,
    noTick⟩

/-! ## The Step by its cases -/

/-- Settles O6. -/
theorem stepRunsDecodedInstruction : Obligations.StepRunsDecodedInstruction := by
  intro s i h
  obtain ⟨u, hu⟩ := exec_answers i s.clearOutputs
  exact ⟨u, hu, step_of_runsNext h hu⟩

/-- Settles O14: each case of a Step answers, and so does every instruction. -/
theorem stepAlwaysAnswers : Obligations.StepAlwaysAnswers := by
  intro s
  by_cases running : s.fault = .none
  · by_cases hp : fetchable s.pc = true
    · cases hd : decodeWord (s.readWord s.pc.toNat) with
      | none => exact ⟨_, step_of_unknown running hp hd⟩
      | some i =>
        obtain ⟨u, -, hu⟩ := stepRunsDecodedInstruction s i ⟨running, hp, hd⟩
        exact ⟨_, hu⟩
    · exact ⟨_, step_of_badPc running (Bool.not_eq_true _ ▸ hp)⟩
  · exact ⟨_, step_of_halted running⟩

/-- Settles O8: the report and PC + 2, then the end of every Step. -/
theorem unknownOpcodePassedOver : Obligations.UnknownOpcodePassedOver := by
  intro s running hp hd idle
  obtain ⟨regs, hi, hpc, stack, screen, memory, fault, -, report, -, -, tick, noTick⟩ :=
    stepEndsWithTick (s.clearOutputs.unknownOpcode (s.readWord s.pc.toNat)) idle
  refine ⟨_, step_of_unknown running hp hd, report, hpc, fault.trans running, regs, hi, stack, screen,
    memory, fun hm => ?_, fun hm => (noTick (.inr hm)).1⟩
  obtain ⟨dt, st, -⟩ := tick running hm
  exact ⟨dt, st⟩

/-! ## Faults -/

/-- A Step that takes a fault ends with the latch set and nothing else changed, the outputs absent (R148). -/
theorem State.faultTaken (idle : s.hostIdle) {k : FaultCode} (hk : k ≠ .none) :
    let t := (s.clearOutputs.raise k).finishStep
    t.fault = k ∧ KeepsCore s t ∧ t.unknownOp = none ∧ t.toneReq = false := by
  rw [State.finishStep_of_fault (s := s.clearOutputs.raise k) idle hk]
  exact ⟨rfl, ⟨rfl, rfl, rfl, ⟨rfl, rfl⟩, ⟨rfl, rfl⟩, ⟨rfl, rfl⟩, rfl, rfl⟩, rfl, rfl⟩

/-- The addresses that O9 lists are those that cannot be fetched from (R49, R141). -/
theorem fetchable_eq_false_iff (pc : Word) : fetchable pc = false ↔
    pc.toNat % 2 = 1 ∨ pc.toNat < 0x200 ∨ 0xFFE < pc.toNat := by
  rw [← Bool.not_eq_true, fetchable_iff]
  omega

/-- Settles O9. -/
theorem badPcFaults : Obligations.BadPcFaults := by
  intro s running hp idle
  exact ⟨_, step_of_badPc running ((fetchable_eq_false_iff _).2 hp), State.faultTaken idle (by decide)⟩

/-- Settles O10: only a bad PC and the two stack faults end with the latch set, and each is a fault taken. -/
theorem faultingStepIsPrecise : Obligations.FaultingStepIsPrecise := by
  intro s t h running idle hf
  obtain ⟨halted, -⟩ | ⟨-, -, rfl⟩ | ⟨-, -, -, rfl⟩ | ⟨i, u, -, hu, rfl⟩ := step_cases h
  · exact absurd running halted
  · exact (State.faultTaken idle (by decide)).2
  · rw [State.finishStep_fault (s := s.clearOutputs.unknownOpcode _) idle] at hf
    exact absurd running hf
  · obtain rest | ⟨-, -, rfl⟩ | ⟨-, -, rfl⟩ := exec_keepsRest hu
    · rw [State.finishStep_fault (exec_hostIdle hu idle), rest.1] at hf
      exact absurd running hf
    · exact (State.faultTaken idle (by decide)).2
    · exact (State.faultTaken idle (by decide)).2

/-- Settles O11: a bad PC raises PcFault; an instruction raises what its meaning raises, which for all but a
full call and an empty return is nothing; an unknown opcode raises nothing. -/
theorem faultsAreTheThree : Obligations.FaultsAreTheThree := by
  refine ⟨fun s t h running idle => ⟨fun hp => ?_, fun i hi => ?_, fun hp hd => ?_⟩, rfl, rfl, rfl, rfl⟩
  · cases h.symm.trans (step_of_badPc running hp)
    exact (State.faultTaken idle (by decide)).1
  · obtain ⟨u, hu, hs⟩ := stepRunsDecodedInstruction s i hi
    cases h.symm.trans hs
    rw [State.finishStep_fault (exec_hostIdle hu idle)]
    refine ⟨?_, ?_, fun room used => ?_⟩
    · rintro nnn rfl full
      cases hu.symm.trans (exec_op2NNN_of_full nnn _ full)
      rfl
    · rintro rfl empty
      cases hu.symm.trans (exec_op00EE_of_empty _ empty)
      rfl
    · obtain rest | ⟨⟨nnn, rfl⟩, full, -⟩ | ⟨rfl, empty, -⟩ := exec_keepsRest hu
      · exact rest.1.trans running
      · exact absurd full (room nnn rfl)
      · exact absurd empty (used rfl)
  · cases h.symm.trans (step_of_unknown running hp hd)
    exact (State.finishStep_fault (s := s.clearOutputs.unknownOpcode _) idle).trans running

/-! ## The halted machine -/

/-- Settles O12: a halted Step takes the latched fault again; a halted tick is that of O47. -/
theorem haltedMachineStays : Obligations.HaltedMachineStays := by
  intro s h
  refine ⟨fun idle => ?_, ?_, rfl⟩
  · obtain ⟨fault, core, unknownOp, tone⟩ := State.faultTaken idle h
    exact ⟨_, step_of_halted h, core, fault, unknownOp, tone⟩
  · obtain ⟨core, fault, -, tone⟩ := (timerTickDecrements s).2.1 h
    exact ⟨core, fault, tone⟩

/-- The host's moves but Reset and boot leave the latch alone. -/
theorem State.foldl_hostMove_fault (l : List HostMove) (hl : ∀ m ∈ l, m = .timerTick ∨ m = .clearDirty)
    (s : State) : (l.foldl State.hostMove s).fault = s.fault := by
  induction l generalizing s with
  | nil => rfl
  | cons m l ih =>
    obtain ⟨hm, hl⟩ := List.forall_mem_cons.1 hl
    rw [List.foldl_cons, ih hl]
    obtain rfl | rfl := hm
    · rw [State.hostMove]
      split
      · rfl
      · exact s.timerTick_fault
    · rfl

/-- Settles O13: neither the halted Step nor the moves after it write the latch. -/
theorem faultLatchedUntilReset : Obligations.FaultLatchedUntilReset := by
  intro s t h hf moves
  cases h.symm.trans (step_of_halted hf)
  rw [State.finishStep, State.stepTick_of_fault (s := s.clearOutputs) hf]
  exact State.foldl_hostMove_fault _ moves _

/-! ## The self-jump -/

/-- The 12-bit target of a jump to a fetchable address is the address (R65). -/
theorem targetNNN_of_fetchable {pc : Word} (h : fetchable pc = true) :
    targetNNN (pc.extractLsb 11 0) = pc := by
  obtain ⟨-, -, high⟩ := (fetchable_iff pc).1 h
  apply BitVec.eq_of_toNat_eq
  rw [targetNNN_toNat]
  exact Nat.mod_eq_of_lt (by omega)

theorem KeepsMemory.readWord_eq (h : KeepsMemory s t) (a : Nat) : t.readWord a = s.readWord a :=
  congrArg₂ bigEndian (h a) (h (a + 1))

/-- Settles O24: the jump writes to PC the value it holds, so only the end of the Step changes anything. -/
theorem selfJumpStays : Obligations.SelfJumpStays := by
  intro s ⟨running, hp, hd⟩ idle
  have he := exec_op1NNN (s.pc.extractLsb 11 0) s.clearOutputs
  rw [targetNNN_of_fetchable hp] at he
  obtain ⟨regs, hi, hpc, stack, screen, memory, fault, -, unknownOp, -⟩ :=
    stepEndsWithTick s.clearOutputs idle
  have hs : step s = .next s.clearOutputs.finishStep := step_of_runsNext ⟨running, hp, hd⟩ he
  refine ⟨_, hs, ⟨fault.trans running, ?_, ?_⟩, hpc, regs, hi, memory, stack, screen, unknownOp⟩
  · rw [hpc]
    exact hp
  · rw [memory.readWord_eq, hpc]
    exact hd

end Sys2Proof.Machine
end

section
/-! The invariant (R13, R26, R66): every host move and every Step keeps it. -/
namespace Sys2Proof.Machine

variable {i : Instr} {s t : State}

/-- The invariant speaks of memory, I and the stack in use, and of nothing else. -/
theorem State.Inv.of_keeps (inv : s.Inv) (hm : t.memWf) (hi : t.i.toNat < 4096) (hs : KeepsStack s t) :
    t.Inv := by
  obtain ⟨sp, stack⟩ := hs
  refine ⟨hm, hi, fun k hk => ?_⟩
  simp only [stack]
  exact inv.stack k (sp ▸ hk)

/-! ## Host moves -/

/-- Settles O53: Reset lists no byte of memory, I and SP are 0. -/
theorem resetMeetsInvariant : Obligations.ResetMeetsInvariant :=
  ⟨Memory.wf_nil _, by decide, fun _ hk => absurd hk (Nat.not_lt_zero _)⟩

theorem State.inv_hostReset (s : State) : s.hostReset.Inv :=
  ⟨Memory.wf_nil _, resetMeetsInvariant.index, resetMeetsInvariant.stack⟩

theorem State.Inv.loadProgram (inv : s.Inv) (image : List Byte) : (s.loadProgram image).Inv := by
  unfold State.loadProgram
  split
  · have same := s.sameButMem_writeBytes 0x200 image
    exact inv.of_keeps (State.memWf_writeBytes _ _ inv.memory) (same.i ▸ inv.index) ⟨same.sp, same.stack⟩
  · exact inv

theorem State.Inv.timerTick (inv : s.Inv) : s.timerTick.Inv := by
  obtain ⟨d, st, o, e⟩ := s.timerTick_spec
  rw [e]
  exact ⟨inv.memory, inv.index, inv.stack⟩

theorem State.Inv.stepTick (inv : s.Inv) : s.stepTick.Inv := by
  obtain ⟨d, st, o, e⟩ := s.stepTick_spec
  rw [e]
  exact ⟨inv.memory, inv.index, inv.stack⟩

/-- Settles O54: a Reset sets the invariant up, a load stores in memory alone, the other moves touch nothing
it speaks of. -/
theorem hostMovesKeepInvariant : Obligations.HostMovesKeepInvariant := by
  intro s m inv
  cases m with
  | reset => exact s.inv_hostReset
  | boot image => exact s.inv_hostReset.loadProgram image
  | timerTick =>
    rw [State.hostMove]
    split
    · exact inv
    · exact inv.timerTick
  | clearDirty => exact ⟨inv.memory, inv.index, inv.stack⟩

/-! ## Instructions -/

/-- A call writes the address of the 2NNN above the entries in use (R68). -/
theorem State.Inv.afterCall (inv : s.Inv) (hp : fetchable s.pc = true) (room : s.sp.val < 16) (w : Word) :
    State.Inv { s with
      sp := ⟨s.sp.val + 1, by omega⟩, stack := s.stack.set s.sp.val s.pc, pc := w } := by
  refine ⟨inv.memory, inv.index, fun k hk => ?_⟩
  have hk : k < s.sp.val + 1 := hk
  simp only [Vector.getElem_set]
  split
  · exact hp
  · exact inv.stack k (by omega)

/-- A return leaves fewer entries in use (R66). -/
theorem State.Inv.afterReturn (inv : s.Inv) (w : Word) :
    State.Inv { s with sp := ⟨s.sp.val - 1, by omega⟩, pc := w } := by
  refine ⟨inv.memory, inv.index, fun k hk => ?_⟩
  have hk : k < s.sp.val - 1 := hk
  exact inv.stack k (by omega)

/-- Every value given to I is below 4096 (R13). -/
theorem State.setI_i_lt (s : State) (n : Nat) : (s.setI n).i.toNat < 4096 := by
  rw [s.setI_i_toNat]
  exact Nat.mod_lt _ (by decide)

theorem State.lsIncrement_i_lt (h : s.i.toNat < 4096) (j : Word) (x : Reg) :
    (s.lsIncrement j x).i.toNat < 4096 := by
  unfold State.lsIncrement
  split
  · exact s.setI_i_lt _
  · exact h

/-- An instruction fetched at a fetchable PC keeps the invariant. -/
theorem exec_keepsInvariant (inv : s.Inv) (hp : fetchable s.pc = true) (h : exec i s = .next t) : t.Inv := by
  cases i with
  | op2NNN nnn =>
    obtain ⟨room, rfl⟩ | ⟨-, rfl⟩ := exec_op2NNN_cases h
    · exact inv.afterCall hp room _
    · exact ⟨inv.memory, inv.index, inv.stack⟩
  | op00EE =>
    obtain ⟨-, rfl⟩ | ⟨-, rfl⟩ := exec_op00EE_cases h
    · exact inv.afterReturn _
    · exact ⟨inv.memory, inv.index, inv.stack⟩
  | opFX0A x =>
    obtain ⟨-, rfl⟩ | ⟨k, -, rfl⟩ := exec_opFX0A_cases h <;> exact ⟨inv.memory, inv.index, inv.stack⟩
  | opFX33 x =>
    obtain ⟨u, same, memWf, rfl⟩ := exec_opFX33_cases h
    exact inv.of_keeps (memWf inv.memory) (lt_of_eq_of_lt (congrArg BitVec.toNat same.i) inv.index)
      ⟨same.sp, same.stack⟩
  | opFX55 x =>
    obtain ⟨u, same, memWf, rfl⟩ := exec_opFX55_cases h
    exact inv.of_keeps (memWf inv.memory) (State.lsIncrement_i_lt (same.i ▸ inv.index) s.i x)
      ⟨same.sp, same.stack⟩
  | opFX65 x =>
    obtain ⟨v, rfl⟩ := exec_opFX65_cases h
    exact ⟨inv.memory, State.lsIncrement_i_lt inv.index s.i x, inv.stack⟩
  | opANNN | opFX1E | opFX29 =>
    cases h
    exact ⟨inv.memory, s.setI_i_lt _, inv.stack⟩
  | _ =>
    cases h
    exact ⟨inv.memory, inv.index, inv.stack⟩

/-! ## The Step -/

theorem State.Inv.finishStep (inv : s.Inv) : s.finishStep.Inv :=
  have ticked := inv.stepTick
  State.finishStep_induct hostMovesKeepInvariant s ⟨ticked.memory, ticked.index, ticked.stack⟩

/-- Settles O55, by the cases of a Step: all of them end as every Step ends, and only an instruction, fetched
at a fetchable PC, can write what the invariant speaks of. -/
theorem stepKeepsInvariant : Obligations.StepKeepsInvariant := by
  intro s t inv h
  have cleared : s.clearOutputs.Inv := ⟨inv.memory, inv.index, inv.stack⟩
  obtain ⟨-, rfl⟩ | ⟨-, -, rfl⟩ | ⟨-, -, -, rfl⟩ | ⟨i, u, ⟨-, hp, -⟩, hu, rfl⟩ := step_cases h
  · exact cleared.finishStep
  · exact State.Inv.finishStep ⟨inv.memory, inv.index, inv.stack⟩
  · exact State.Inv.finishStep ⟨inv.memory, inv.index, inv.stack⟩
  · exact (exec_keepsInvariant cleared hp hu).finishStep

end Sys2Proof.Machine
end

section
/-! What a Step reads of its input (R20, R96): a Step does not depend on a part of it that its instruction
does not read. -/
namespace Sys2Proof.Machine

variable {i : Instr} {s t : State} {b : StepInput}

/-! ## Giving another input commutes with what the instructions do -/

/-- The instruction that reads RND (R96). -/
def readsRnd : Instr → Bool
  | .opCXNN _ _ => true
  | _ => false

/-- The instructions that read the keys, and with them the free values that the two key parameters take (R20,
R125, R128). -/
def readsKeys : Instr → Bool
  | .opEX9E _ | .opEXA1 _ | .opFX0A _ => true
  | _ => false

/-- The inputs hold the same keys and the same free values of the key parameters. -/
def SameKeys (a b : StepInput) : Prop := b.key = a.key ∧ b.keyDraw = a.keyDraw ∧ b.pick = a.pick

theorem State.withInput_writeBytes (s : State) (b : StepInput) (a : Nat) (xs : List Byte) :
    (s.withInput b).writeBytes a xs = (s.writeBytes a xs).withInput b := by
  induction xs generalizing s a with
  | nil => rfl
  | cons x xs ih => exact ih (s.writeByte a x) (a + 1)

theorem State.withInput_storeRegs (s : State) (b : StepInput) (rs : List Reg) :
    (s.withInput b).storeRegs rs = (s.storeRegs rs).withInput b :=
  List.foldl_hom (State.withInput · b) fun _ _ => rfl

theorem State.withInput_loadRegs (s : State) (b : StepInput) (rs : List Reg) :
    (s.withInput b).loadRegs rs = (s.loadRegs rs).withInput b :=
  List.foldl_hom (State.withInput · b) fun _ _ => rfl

theorem State.withInput_lsIncrement (s : State) (b : StepInput) (j : Word) (x : Reg) :
    (s.withInput b).lsIncrement j x = (s.lsIncrement j x).withInput b := by
  rw [State.lsIncrement_eq, State.lsIncrement_eq]
  rfl

theorem State.withInput_keyOf (hk : SameKeys s.input b) (v : Byte) : (s.withInput b).keyOf v = s.keyOf v := by
  obtain ⟨key, keyDraw, -⟩ := hk
  by_cases h : s.cfg.keyIndexPolicy = .mask ∨ v.toNat ≤ 15
  · rw [State.keyOf_of_nibble h, State.keyOf_of_nibble (s := s.withInput b) h, ← key]
    rfl
  · obtain ⟨hp, hv⟩ := not_or.1 h
    rw [State.keyOf_of_drawn hp hv, State.keyOf_of_drawn (s := s.withInput b) hp hv]
    exact keyDraw

theorem State.withInput_pickKey (hk : SameKeys s.input b) : (s.withInput b).pickKey = s.pickKey := by
  obtain ⟨key, -, pick⟩ := hk
  change (scanOrder s.cfg.keyPriority b.pick).find? (fun k => b.key[k]) = _
  rw [key, pick]
  rfl

/-- An instruction given another input, the same where it reads the input, does the same. -/
theorem exec_withInput (h : exec i s = .next t) (hr : readsRnd i = true → b.rnd = s.input.rnd)
    (hk : readsKeys i = true → SameKeys s.input b) : exec i (s.withInput b) = .next (t.withInput b) := by
  cases i with
  | opCXNN x nn =>
    cases h
    exact congrArg (fun r => Host.Outcome.next ((s.result x (r &&& nn)).withInput b)) (hr rfl)
  | opEX9E x =>
    cases h
    rw [exec_opEX9E, State.withInput_keyOf (hk rfl)]
    rfl
  | opEXA1 x =>
    cases h
    rw [exec_opEXA1, State.withInput_keyOf (hk rfl)]
    rfl
  | opFX0A x =>
    have same := State.withInput_pickKey (hk rfl)
    obtain ⟨none, rfl⟩ | ⟨k, some, rfl⟩ := exec_opFX0A_cases h
    · exact exec_opFX0A_of_noKey x (same.trans none)
    · exact exec_opFX0A_of_key x (same.trans some)
  | op2NNN nnn =>
    obtain ⟨room, rfl⟩ | ⟨full, rfl⟩ := exec_op2NNN_cases h
    · exact exec_op2NNN_of_room nnn (s.withInput b) room
    · exact exec_op2NNN_of_full nnn (s.withInput b) full
  | op00EE =>
    obtain ⟨used, rfl⟩ | ⟨empty, rfl⟩ := exec_op00EE_cases h
    · exact exec_op00EE_of_used (s.withInput b) used
    · exact exec_op00EE_of_empty (s.withInput b) empty
  | opFX33 x =>
    cases h
    exact congrArg (fun u => Host.Outcome.next u.advance) (s.withInput_writeBytes b _ _)
  | opFX55 x =>
    cases h
    rw [exec_opFX55, State.withInput_storeRegs, State.withInput_lsIncrement]
    rfl
  | opFX65 x =>
    cases h
    rw [exec_opFX65, State.withInput_loadRegs, State.withInput_lsIncrement]
    rfl
  | _ =>
    cases h
    rfl

/-! ## The Step -/

theorem State.withInput_timerTick (s : State) (b : StepInput) :
    (s.withInput b).timerTick = s.timerTick.withInput b := by
  by_cases h : s.fault = .none
  · rw [State.timerTick_of_running h, State.timerTick_of_running (s := s.withInput b) h]
    rfl
  · rw [State.timerTick_of_fault h, State.timerTick_of_fault (s := s.withInput b) h]
    rfl

theorem State.withInput_stepTick (s : State) (b : StepInput) :
    (s.withInput b).stepTick = s.stepTick.withInput b := by
  by_cases h : s.fault = .none
  · cases hm : s.cfg.timerMode with
    | perStep =>
      rw [State.stepTick_of_running h hm, State.stepTick_of_running (s := s.withInput b) h hm,
        State.withInput_timerTick]
    | externalTick =>
      rw [State.stepTick_of_external hm, State.stepTick_of_external (s := s.withInput b) hm]
  · rw [State.stepTick_of_fault h, State.stepTick_of_fault (s := s.withInput b) h]

/-- The end of a Step reads the host's moves of its input and uses the input up. -/
theorem State.finishStep_withInput (ha : b.after = s.input.after) :
    (s.withInput b).finishStep = s.finishStep := by
  change b.after.foldl State.hostMove (s.withInput b).stepTick.takeInput = s.finishStep
  rw [State.withInput_stepTick, ha]
  rfl

/-- A Step given another input, the same where the Step reads the input, does the same. -/
theorem step_withInput (ha : b.after = s.input.after)
    (hr : ∀ i, s.runsNext i → readsRnd i = true → b.rnd = s.input.rnd)
    (hk : ∀ i, s.runsNext i → readsKeys i = true → SameKeys s.input b) :
    step (s.withInput b) = step s := by
  obtain ⟨t, h⟩ := stepAlwaysAnswers s
  rw [h]
  obtain ⟨halted, rfl⟩ | ⟨running, hp, rfl⟩ | ⟨running, hp, hd, rfl⟩ | ⟨i, u, hi, hu, rfl⟩ := step_cases h
  · rw [step_of_halted (s := s.withInput b) halted]
    exact congrArg _ (State.finishStep_withInput (s := s.clearOutputs) ha)
  · rw [step_of_badPc (s := s.withInput b) running hp]
    exact congrArg _ (State.finishStep_withInput (s := s.clearOutputs.raise .pcFault) ha)
  · rw [step_of_unknown (s := s.withInput b) running hp hd]
    exact congrArg _ (State.finishStep_withInput (s := s.clearOutputs.unknownOpcode _) ha)
  · rw [step_of_runsNext (s := s.withInput b) hi (exec_withInput hu (hr i hi) (hk i hi))]
    exact congrArg _ (State.finishStep_withInput (ha.trans (congrArg StepInput.after (exec_input hu).symm)))

/-- Settles O59: the two inputs agree in the keys and the host's moves, and CXNN does not run. -/
theorem rndReadOnlyByRandom : Obligations.RndReadOnlyByRandom := by
  intro s input rnd other
  refine (step_withInput (s := s.withInput input) (b := { input with rnd := rnd }) rfl
    (fun i hi h => ?_) fun _ _ _ => ⟨rfl, rfl, rfl⟩).symm
  obtain ⟨-, -, hd⟩ := hi
  cases i with
  | opCXNN x nn => exact absurd hd (other x nn)
  | _ => cases h

/-- Settles O60: the two inputs agree in RND and the host's moves, and no instruction that reads the keys
runs. -/
theorem keysReadOnlyByKeyInstructions : Obligations.KeysReadOnlyByKeyInstructions := by
  intro s input key other
  refine (step_withInput (s := s.withInput input) (b := { input with key := key }) rfl (fun _ _ _ => rfl)
    fun i hi h => ?_).symm
  obtain ⟨-, -, hd⟩ := hi
  cases i with
  | opEX9E x => exact absurd hd (other x).1
  | opEXA1 x => exact absurd hd (other x).2.1
  | opFX0A x => exact absurd hd (other x).2.2
  | _ => cases h

end Sys2Proof.Machine
end
